-- ==== Sys2Proof/Word.lean ====
section
/-! DEFINITION. The widths of the MC68000 (00_scope.md R7, R9, R11): byte, word, long word and operand size. -/

namespace Sys2Proof

/-- A byte: 8 bits (00_scope.md R9). -/
abbrev Byte := BitVec 8

/-- A word: 16 bits (00_scope.md R9). -/
abbrev Word := BitVec 16

/-- A long word, a register, an internal address: 32 bits (00_scope.md R9, 20_memory.md R60). -/
abbrev Long := BitVec 32

/-- The three operand sizes `.B`, `.W`, `.L` (00_scope.md R11). -/
inductive Size where
  | b
  | w
  | l
deriving DecidableEq, Repr

/-- The width of an operand in bits, `8·size` of 00_scope.md R11. -/
abbrev Size.bits : Size → Nat
  | .b => 8
  | .w => 16
  | .l => 32

/-- The size counted in bytes: 1, 2 or 4 (00_scope.md R11). -/
abbrev Size.bytes : Size → Nat
  | .b => 1
  | .w => 2
  | .l => 4

end Sys2Proof
end

