-- ==== Sys2Proof/Syntax.lean ====
section
/-! DEFINITION. The instructions of the MC68000: one constructor of `Instr` per row of spec/opcode_table.json.
An instruction is what its operation word says (30_encoding.md R100); the extension words it announces are
consumed by its meaning, with Fetch16 (R104). -/

namespace Sys2Proof

/-- The number of a data or address register (10_state.md R21, R23). -/
abbrev RegNo := Fin 8

/-- The twelve encodings of the effective-address field (30_encoding.md R108). -/
inductive Ea where
  /-- `Dn`, R110 -/
  | dn (n : RegNo)
  /-- `An`, R111 -/
  | an (n : RegNo)
  /-- `(An)`, R112 -/
  | ind (n : RegNo)
  /-- `(An)+`, R113 -/
  | post (n : RegNo)
  /-- `-(An)`, R114 -/
  | pre (n : RegNo)
  /-- `d16(An)`, R115 -/
  | disp (n : RegNo)
  /-- `d8(An,Xn)`, R116 -/
  | index (n : RegNo)
  /-- `abs.W`, R117 -/
  | absW
  /-- `abs.L`, R117 -/
  | absL
  /-- `d16(PC)`, R118 -/
  | pcDisp
  /-- `d8(PC,Xn)`, R119 -/
  | pcIndex
  /-- `#data`, R120 -/
  | imm
deriving DecidableEq, Repr

/-- The sixteen conditions (30_encoding.md R140). -/
inductive Cond where
  | t
  | f
  | hi
  | ls
  | cc
  | cs
  | ne
  | eq
  | vc
  | vs
  | pl
  | mi
  | ge
  | lt
  | gt
  | le
deriving DecidableEq, Repr

/-- The count of a register shift: a quick value (0 stands for 8) or a data register (43_shift_rotate.md R253). -/
inductive ShiftCount where
  | quick (q : RegNo)
  | reg (n : RegNo)
deriving DecidableEq, Repr

/-- The R/M bit of ABCD, SBCD, ADDX, SUBX (30_encoding.md R133): `Dy,Dx` or `-(Ay),-(Ax)`. -/
inductive PairMode where
  | regs
  | mem
deriving DecidableEq, Repr

/-- The brief-format extension word of the indexed modes (30_encoding.md R116); bits 10 to 8 have no function
(D32) and no field. -/
structure BriefExt where
  /-- bit 15: the index register is an address register -/
  isAddr : Bool
  /-- bits 14 to 12 -/
  reg : RegNo
  /-- bit 11: all 32 bits of the index register, not the sign-extended low word -/
  isLong : Bool
  /-- bits 7 to 0, signed -/
  disp : Byte
deriving DecidableEq, Repr

/-- The instructions, in the order of spec/opcode_table.json. Each docstring is the row's mnemonic and rule. -/
inductive Instr where
  /-- ORI: 42_logical.md R235 -/
  | ori (sz : Size) (ea : Ea)
  /-- ORI_to_CCR: 47_system_control.md R324 -/
  | oriToCcr
  /-- ORI_to_SR: 47_system_control.md R327 -/
  | oriToSr
  /-- ANDI: 42_logical.md R234 -/
  | andi (sz : Size) (ea : Ea)
  /-- ANDI_to_CCR: 47_system_control.md R322 -/
  | andiToCcr
  /-- ANDI_to_SR: 47_system_control.md R325 -/
  | andiToSr
  /-- SUBI: 41_integer_arithmetic.md R199 -/
  | subi (sz : Size) (ea : Ea)
  /-- ADDI: 41_integer_arithmetic.md R193 -/
  | addi (sz : Size) (ea : Ea)
  /-- EORI: 42_logical.md R236 -/
  | eori (sz : Size) (ea : Ea)
  /-- EORI_to_CCR: 47_system_control.md R323 -/
  | eoriToCcr
  /-- EORI_to_SR: 47_system_control.md R326 -/
  | eoriToSr
  /-- CMPI: 41_integer_arithmetic.md R207 -/
  | cmpi (sz : Size) (ea : Ea)
  /-- BTST__n__ea: 44_bit_manipulation.md R274 -/
  | btstImm (ea : Ea)
  /-- BTST_Dn__ea: 44_bit_manipulation.md R274 -/
  | btstReg (n : RegNo) (ea : Ea)
  /-- BCHG__n__ea: 44_bit_manipulation.md R275 -/
  | bchgImm (ea : Ea)
  /-- BCHG_Dn__ea: 44_bit_manipulation.md R275 -/
  | bchgReg (n : RegNo) (ea : Ea)
  /-- BCLR__n__ea: 44_bit_manipulation.md R276 -/
  | bclrImm (ea : Ea)
  /-- BCLR_Dn__ea: 44_bit_manipulation.md R276 -/
  | bclrReg (n : RegNo) (ea : Ea)
  /-- BSET__n__ea: 44_bit_manipulation.md R277 -/
  | bsetImm (ea : Ea)
  /-- BSET_Dn__ea: 44_bit_manipulation.md R277 -/
  | bsetReg (n : RegNo) (ea : Ea)
  /-- MOVEP: 40_data_movement.md R175 -/
  | movep (toMem : Bool) (sz : Size) (dn an : RegNo)
  /-- MOVE: 40_data_movement.md R162 -/
  | move (sz : Size) (src dst : Ea)
  /-- MOVEA: 40_data_movement.md R164 -/
  | movea (sz : Size) (src : Ea) (an : RegNo)
  /-- NEGX: 41_integer_arithmetic.md R203 -/
  | negx (sz : Size) (ea : Ea)
  /-- MOVE_from_SR: 47_system_control.md R333 -/
  | moveFromSr (ea : Ea)
  /-- CHK: 47_system_control.md R329 -/
  | chk (dn : RegNo) (ea : Ea)
  /-- LEA: 40_data_movement.md R176 -/
  | lea (an : RegNo) (ea : Ea)
  /-- CLR: 41_integer_arithmetic.md R204 -/
  | clr (sz : Size) (ea : Ea)
  /-- NEG: 41_integer_arithmetic.md R202 -/
  | neg (sz : Size) (ea : Ea)
  /-- MOVE_to_CCR: 47_system_control.md R331 -/
  | moveToCcr (ea : Ea)
  /-- NOT: 42_logical.md R237 -/
  | not (sz : Size) (ea : Ea)
  /-- MOVE_to_SR: 47_system_control.md R332 -/
  | moveToSr (ea : Ea)
  /-- NBCD: 45_bcd.md R286 -/
  | nbcd (ea : Ea)
  /-- SWAP: 43_shift_rotate.md R264 -/
  | swap (dn : RegNo)
  /-- PEA: 40_data_movement.md R177 -/
  | pea (ea : Ea)
  /-- EXT: 41_integer_arithmetic.md R209 -/
  | ext (sz : Size) (dn : RegNo)
  /-- MOVEM__list___ea: 40_data_movement.md R167 -/
  | movemToMem (sz : Size) (ea : Ea)
  /-- MOVEM__list__-_An: 40_data_movement.md R168 -/
  | movemPredec (sz : Size) (an : RegNo)
  /-- TST: 42_logical.md R238 -/
  | tst (sz : Size) (ea : Ea)
  /-- TAS: 48_multiprocessor.md R350 -/
  | tas (ea : Ea)
  /-- ILLEGAL: 47_system_control.md R330 -/
  | illegal
  /-- MOVEM__ea___list: 40_data_movement.md R169 -/
  | movemToRegs (sz : Size) (ea : Ea)
  /-- TRAP: 47_system_control.md R341 -/
  | trap (n : Fin 16)
  /-- LINK: 40_data_movement.md R179 -/
  | link (an : RegNo)
  /-- UNLK: 40_data_movement.md R180 -/
  | unlk (an : RegNo)
  /-- MOVE_An_USP: 47_system_control.md R336 -/
  | moveToUsp (an : RegNo)
  /-- MOVE_USP_An: 47_system_control.md R337 -/
  | moveFromUsp (an : RegNo)
  /-- RESET: 47_system_control.md R339 -/
  | reset
  /-- NOP: 46_program_control.md R299 -/
  | nop
  /-- STOP: 47_system_control.md R340 -/
  | stop
  /-- RTE: 46_program_control.md R312 -/
  | rte
  /-- RTS: 46_program_control.md R310 -/
  | rts
  /-- TRAPV: 47_system_control.md R342 -/
  | trapv
  /-- RTR: 46_program_control.md R311 -/
  | rtr
  /-- JSR: 46_program_control.md R297 -/
  | jsr (ea : Ea)
  /-- JMP: 46_program_control.md R296 -/
  | jmp (ea : Ea)
  /-- ADDQ: 41_integer_arithmetic.md R194 -/
  | addq (sz : Size) (q : RegNo) (ea : Ea)
  /-- SUBQ: 41_integer_arithmetic.md R200 -/
  | subq (sz : Size) (q : RegNo) (ea : Ea)
  /-- Scc: 42_logical.md R239 -/
  | scc (c : Cond) (ea : Ea)
  /-- DBcc: 46_program_control.md R295 -/
  | dbcc (c : Cond) (dn : RegNo)
  /-- BRA: 46_program_control.md R292 -/
  | bra (disp : Byte)
  /-- BSR: 46_program_control.md R294 -/
  | bsr (disp : Byte)
  /-- Bcc: 46_program_control.md R293 -/
  | bcc (c : Cond) (disp : Byte)
  /-- MOVEQ: 40_data_movement.md R165 -/
  | moveq (data : Byte) (dn : RegNo)
  /-- OR__ea__Dn: 42_logical.md R232 -/
  | orToDn (sz : Size) (dn : RegNo) (ea : Ea)
  /-- OR_Dn__ea: 42_logical.md R232 -/
  | orToEa (sz : Size) (dn : RegNo) (ea : Ea)
  /-- DIVU: 41_integer_arithmetic.md R213 -/
  | divu (dn : RegNo) (ea : Ea)
  /-- DIVS: 41_integer_arithmetic.md R214 -/
  | divs (dn : RegNo) (ea : Ea)
  /-- SBCD: 45_bcd.md R285 -/
  | sbcd (m : PairMode) (x y : RegNo)
  /-- SUB__ea__Dn: 41_integer_arithmetic.md R197 -/
  | subToDn (sz : Size) (dn : RegNo) (ea : Ea)
  /-- SUB_Dn__ea: 41_integer_arithmetic.md R197 -/
  | subToEa (sz : Size) (dn : RegNo) (ea : Ea)
  /-- SUBA: 41_integer_arithmetic.md R198 -/
  | suba (sz : Size) (an : RegNo) (ea : Ea)
  /-- SUBX: 41_integer_arithmetic.md R201 -/
  | subx (sz : Size) (m : PairMode) (x y : RegNo)
  /-- ADD__ea__Dn: 41_integer_arithmetic.md R191 -/
  | addToDn (sz : Size) (dn : RegNo) (ea : Ea)
  /-- ADD_Dn__ea: 41_integer_arithmetic.md R191 -/
  | addToEa (sz : Size) (dn : RegNo) (ea : Ea)
  /-- ADDA: 41_integer_arithmetic.md R192 -/
  | adda (sz : Size) (an : RegNo) (ea : Ea)
  /-- ADDX: 41_integer_arithmetic.md R195 -/
  | addx (sz : Size) (m : PairMode) (x y : RegNo)
  /-- CMP: 41_integer_arithmetic.md R205 -/
  | cmp (sz : Size) (dn : RegNo) (ea : Ea)
  /-- CMPA: 41_integer_arithmetic.md R206 -/
  | cmpa (sz : Size) (an : RegNo) (ea : Ea)
  /-- EOR: 42_logical.md R233 -/
  | eor (sz : Size) (dn : RegNo) (ea : Ea)
  /-- CMPM: 41_integer_arithmetic.md R208 -/
  | cmpm (sz : Size) (x y : RegNo)
  /-- AND__ea__Dn: 42_logical.md R231 -/
  | andToDn (sz : Size) (dn : RegNo) (ea : Ea)
  /-- AND_Dn__ea: 42_logical.md R231 -/
  | andToEa (sz : Size) (dn : RegNo) (ea : Ea)
  /-- MULU: 41_integer_arithmetic.md R210 -/
  | mulu (dn : RegNo) (ea : Ea)
  /-- MULS: 41_integer_arithmetic.md R211 -/
  | muls (dn : RegNo) (ea : Ea)
  /-- ABCD: 45_bcd.md R284 -/
  | abcd (m : PairMode) (x y : RegNo)
  /-- EXG_Dx_Dy: 40_data_movement.md R178 -/
  | exgDD (x y : RegNo)
  /-- EXG_Ax_Ay: 40_data_movement.md R178 -/
  | exgAA (x y : RegNo)
  /-- EXG_Dx_Ay: 40_data_movement.md R178 -/
  | exgDA (x y : RegNo)
  /-- ASL__n_Dm_Dn: 43_shift_rotate.md R255 -/
  | aslReg (sz : Size) (cnt : ShiftCount) (dn : RegNo)
  /-- ASL__ea: 43_shift_rotate.md R255 -/
  | aslMem (ea : Ea)
  /-- ASR__n_Dm_Dn: 43_shift_rotate.md R256 -/
  | asrReg (sz : Size) (cnt : ShiftCount) (dn : RegNo)
  /-- ASR__ea: 43_shift_rotate.md R256 -/
  | asrMem (ea : Ea)
  /-- LSL__n_Dm_Dn: 43_shift_rotate.md R257 -/
  | lslReg (sz : Size) (cnt : ShiftCount) (dn : RegNo)
  /-- LSL__ea: 43_shift_rotate.md R257 -/
  | lslMem (ea : Ea)
  /-- LSR__n_Dm_Dn: 43_shift_rotate.md R258 -/
  | lsrReg (sz : Size) (cnt : ShiftCount) (dn : RegNo)
  /-- LSR__ea: 43_shift_rotate.md R258 -/
  | lsrMem (ea : Ea)
  /-- ROL__n_Dm_Dn: 43_shift_rotate.md R259 -/
  | rolReg (sz : Size) (cnt : ShiftCount) (dn : RegNo)
  /-- ROL__ea: 43_shift_rotate.md R259 -/
  | rolMem (ea : Ea)
  /-- ROR__n_Dm_Dn: 43_shift_rotate.md R260 -/
  | rorReg (sz : Size) (cnt : ShiftCount) (dn : RegNo)
  /-- ROR__ea: 43_shift_rotate.md R260 -/
  | rorMem (ea : Ea)
  /-- ROXL__n_Dm_Dn: 43_shift_rotate.md R261 -/
  | roxlReg (sz : Size) (cnt : ShiftCount) (dn : RegNo)
  /-- ROXL__ea: 43_shift_rotate.md R261 -/
  | roxlMem (ea : Ea)
  /-- ROXR__n_Dm_Dn: 43_shift_rotate.md R262 -/
  | roxrReg (sz : Size) (cnt : ShiftCount) (dn : RegNo)
  /-- ROXR__ea: 43_shift_rotate.md R262 -/
  | roxrMem (ea : Ea)
  /-- line_1010_emulator: 60_exceptions.md R379 -/
  | lineA (low : BitVec 12)
  /-- line_1111_emulator: 60_exceptions.md R380 -/
  | lineF (low : BitVec 12)
deriving DecidableEq, Repr

end Sys2Proof
end

