-- ==== Sys2Proof/WellFormed.lean ====
section
/-! DEFINITION. Which operands an instruction accepts: the categories of 30_encoding.md R122 and the list each
instruction's own rule gives. An operation word with any other operand is not an instruction (R124, R150). -/

namespace Sys2Proof

/-- `An` direct. -/
def Ea.isAn : Ea → Bool
  | .an _ => true
  | _ => false

/-- DATA (R122): every mode except `An`. -/
def Ea.isData (ea : Ea) : Bool := !ea.isAn

/-- ALTERABLE (R122): every mode except the PC-relative ones and the immediate. -/
def Ea.isAlterable : Ea → Bool
  | .pcDisp | .pcIndex | .imm => false
  | _ => true

/-- MEMORY (R122): every mode except `Dn` and `An`. -/
def Ea.isMemory : Ea → Bool
  | .dn _ | .an _ => false
  | _ => true

/-- CONTROL (R122): the memory modes without an operand size. -/
def Ea.isControl : Ea → Bool
  | .ind _ | .disp _ | .index _ | .absW | .absL | .pcDisp | .pcIndex => true
  | _ => false

/-- Data alterable (R122). -/
def Ea.isDataAlterable (ea : Ea) : Bool := ea.isData && ea.isAlterable

/-- Memory alterable (R122). -/
def Ea.isMemAlterable (ea : Ea) : Bool := ea.isMemory && ea.isAlterable

/-- Control alterable (R122). -/
def Ea.isControlAlterable (ea : Ea) : Bool := ea.isControl && ea.isAlterable

/-- The modes MOVEM loads from: control, and `(An)+` (40_data_movement.md R169). -/
def Ea.isMovemSource : Ea → Bool
  | .post _ => true
  | ea => ea.isControl

/-- The modes BTST with an immediate bit number accepts: data, without `#data` (44_bit_manipulation.md R273, R274). -/
def Ea.isStaticBtst (ea : Ea) : Bool := ea.isData && ea != .imm

/-- Byte size excludes `An` direct (30_encoding.md R126). -/
def Ea.fits (sz : Size) (ea : Ea) : Bool := !(sz == .b && ea.isAn)

/-- Word and long only. -/
def Size.isWide (sz : Size) : Bool := sz != .b

/-- The instruction is one the MC68000 has: each operand in the list its rule gives (30_encoding.md R124). -/
def Instr.wf : Instr → Bool
  | .ori _ ea | .andi _ ea | .subi _ ea | .addi _ ea | .eori _ ea | .cmpi _ ea => ea.isDataAlterable
  | .oriToCcr | .oriToSr | .andiToCcr | .andiToSr | .eoriToCcr | .eoriToSr => true
  | .btstImm ea => ea.isStaticBtst
  | .btstReg _ ea => ea.isData
  | .bchgImm ea | .bclrImm ea | .bsetImm ea => ea.isDataAlterable
  | .bchgReg _ ea | .bclrReg _ ea | .bsetReg _ ea => ea.isDataAlterable
  | .movep _ sz _ _ => sz.isWide
  | .move sz src dst => src.fits sz && dst.isDataAlterable
  | .movea sz _ _ => sz.isWide
  | .negx _ ea | .clr _ ea | .neg _ ea | .not _ ea | .tst _ ea => ea.isDataAlterable
  | .moveFromSr ea | .nbcd ea | .tas ea | .scc _ ea => ea.isDataAlterable
  | .chk _ ea | .moveToCcr ea | .moveToSr ea => ea.isData
  | .lea _ ea | .pea ea | .jsr ea | .jmp ea => ea.isControl
  | .swap _ | .illegal | .trap _ | .link _ | .unlk _ | .moveToUsp _ | .moveFromUsp _ => true
  | .reset | .nop | .stop | .rte | .rts | .trapv | .rtr => true
  | .ext sz _ => sz.isWide
  | .movemToMem sz ea => sz.isWide && ea.isControlAlterable
  | .movemPredec sz _ => sz.isWide
  | .movemToRegs sz ea => sz.isWide && ea.isMovemSource
  | .addq sz _ ea | .subq sz _ ea => ea.fits sz && ea.isAlterable
  | .dbcc _ _ | .bra _ | .bsr _ | .moveq _ _ => true
  | .bcc c _ => c != .t && c != .f
  | .orToDn _ _ ea | .andToDn _ _ ea => ea.isData
  | .orToEa _ _ ea | .andToEa _ _ ea | .subToEa _ _ ea | .addToEa _ _ ea => ea.isMemAlterable
  | .divu _ ea | .divs _ ea | .mulu _ ea | .muls _ ea => ea.isData
  | .sbcd _ _ _ | .abcd _ _ _ | .subx _ _ _ _ | .addx _ _ _ _ | .cmpm _ _ _ => true
  | .subToDn sz _ ea | .addToDn sz _ ea | .cmp sz _ ea => ea.fits sz
  | .suba sz _ _ | .adda sz _ _ | .cmpa sz _ _ => sz.isWide
  | .eor _ _ ea => ea.isDataAlterable
  | .exgDD _ _ | .exgAA _ _ | .exgDA _ _ => true
  | .aslReg _ _ _ | .asrReg _ _ _ | .lslReg _ _ _ | .lsrReg _ _ _ => true
  | .rolReg _ _ _ | .rorReg _ _ _ | .roxlReg _ _ _ | .roxrReg _ _ _ => true
  | .aslMem ea | .asrMem ea | .lslMem ea | .lsrMem ea => ea.isMemAlterable
  | .rolMem ea | .rorMem ea | .roxlMem ea | .roxrMem ea => ea.isMemAlterable
  | .lineA _ | .lineF _ => true

end Sys2Proof
end

