-- ==== Sys2Proof/Decode.lean ====
section
/-! DEFINITION. The decoder of operation words (30_encoding.md R103 to R136, R150) and, after it, the encoder.
`decode` is total; a word it refuses takes the illegal-instruction exception (R150), which `step` does. -/

namespace Sys2Proof

/-- Why an operation word is no instruction. Raised by the decoder only; the machine then takes vector 4 (R150): safe. -/
inductive DecodeError where
  /-- Fewer than two bytes were given. -/
  | truncated
  /-- The pattern is assigned to no MC68000 instruction (R136, R152). -/
  | unassigned
  /-- The effective-address field is 111 with register 101, 110 or 111 (R121). -/
  | reservedMode
  /-- An instruction's pattern with an operand that the instruction does not accept (R124, R126). -/
  | operandNotAllowed
deriving DecidableEq, Repr

/-- The bit field of `len` bits whose lowest is bit `lo`, as a number (00_scope.md R9). -/
def fld (w : Word) (lo len : Nat) : Nat := w.toNat / 2 ^ lo % 2 ^ len

/-- The three-bit register field whose lowest bit is `lo`. -/
def regFld (w : Word) (lo : Nat) : RegNo := Fin.ofNat 8 (fld w lo 3)

/-- Mode and register values of an effective-address field (R108); none for the reserved ones (R121). -/
def Ea.decode (mode reg : Nat) : Option Ea :=
  match mode with
  | 0 => some (.dn (Fin.ofNat 8 reg))
  | 1 => some (.an (Fin.ofNat 8 reg))
  | 2 => some (.ind (Fin.ofNat 8 reg))
  | 3 => some (.post (Fin.ofNat 8 reg))
  | 4 => some (.pre (Fin.ofNat 8 reg))
  | 5 => some (.disp (Fin.ofNat 8 reg))
  | 6 => some (.index (Fin.ofNat 8 reg))
  | 7 =>
    match reg with
    | 0 => some .absW
    | 1 => some .absL
    | 2 => some .pcDisp
    | 3 => some .pcIndex
    | 4 => some .imm
    | _ => none
  | _ => none

/-- The condition of a four-bit condition field (R140). -/
def Cond.decode (n : Nat) : Cond :=
  match n with
  | 0 => .t | 1 => .f | 2 => .hi | 3 => .ls | 4 => .cc | 5 => .cs | 6 => .ne | 7 => .eq
  | 8 => .vc | 9 => .vs | 10 => .pl | 11 => .mi | 12 => .ge | 13 => .lt | 14 => .gt | _ => .le

/-- An instruction with the operand of `op[5:3]` and `op[2:0]` (R103). -/
def withEa (w : Word) (k : Ea → Instr) : Except DecodeError Instr :=
  match Ea.decode (fld w 3 3) (fld w 0 3) with
  | some ea => .ok (k ea)
  | none => .error .reservedMode

/-- An instruction with the general size field `op[7:6]` (R105a); the value 11 is the other case. -/
def withSize (w : Word) (k : Size → Except DecodeError Instr) (other : Except DecodeError Instr) :
    Except DecodeError Instr :=
  match fld w 6 2 with
  | 0 => k .b
  | 1 => k .w
  | 2 => k .l
  | _ => other

/-- A size and an operand. -/
def withSizeEa (w : Word) (k : Size → Ea → Instr) (other : Except DecodeError Instr) : Except DecodeError Instr :=
  withSize w (fun sz => withEa w (k sz)) other

/-- A word or long size from one bit (R105c). -/
def wideOf (bit : Nat) : Size := if bit = 1 then .l else .w

/-- The R/M bit `op[3]` (R133). -/
def pairOf (bit : Nat) : PairMode := if bit = 1 then .mem else .regs

/-- Immediate logic with the to-CCR and to-SR forms of the operand field 111100 (R136, 42_logical.md R234). -/
def immOrStatus (w : Word) (k : Size → Ea → Instr) (ccr sr : Instr) : Except DecodeError Instr :=
  if fld w 0 8 = 0x3C then .ok ccr
  else if fld w 0 8 = 0x7C then .ok sr
  else withSizeEa w k (.error .unassigned)

/-- Group 0000 (R136): MOVEP, the bit instructions, the immediate instructions. -/
def decodeGroup0 (w : Word) : Except DecodeError Instr :=
  if fld w 8 1 = 1 then
    if fld w 3 3 = 1 then
      .ok (.movep (fld w 7 1 = 1) (wideOf (fld w 6 1)) (regFld w 9) (regFld w 0))
    else
      match fld w 6 2 with
      | 0 => withEa w (.btstReg (regFld w 9))
      | 1 => withEa w (.bchgReg (regFld w 9))
      | 2 => withEa w (.bclrReg (regFld w 9))
      | _ => withEa w (.bsetReg (regFld w 9))
  else
    match fld w 9 3 with
    | 0 => immOrStatus w .ori .oriToCcr .oriToSr
    | 1 => immOrStatus w .andi .andiToCcr .andiToSr
    | 2 => withSizeEa w .subi (.error .unassigned)
    | 3 => withSizeEa w .addi (.error .unassigned)
    | 4 =>
      match fld w 6 2 with
      | 0 => withEa w .btstImm
      | 1 => withEa w .bchgImm
      | 2 => withEa w .bclrImm
      | _ => withEa w .bsetImm
    | 5 => immOrStatus w .eori .eoriToCcr .eoriToSr
    | 6 => withSizeEa w .cmpi (.error .unassigned)
    | _ => .error .unassigned

/-- Groups 0001, 0010, 0011 (R105b, R136): MOVE and MOVEA. -/
def decodeMove (sz : Size) (w : Word) : Except DecodeError Instr :=
  if fld w 6 3 = 1 then withEa w (fun src => .movea sz src (regFld w 9))
  else
    match Ea.decode (fld w 6 3) (fld w 9 3) with
    | some dst => withEa w (fun src => .move sz src dst)
    | none => .error .reservedMode

/-- The words $4E40 to $4E7F (47_system_control.md R338). -/
def decodeSystem (w : Word) : Except DecodeError Instr :=
  match fld w 3 3 with
  | 0 | 1 => .ok (.trap (Fin.ofNat 16 (fld w 0 4)))
  | 2 => .ok (.link (regFld w 0))
  | 3 => .ok (.unlk (regFld w 0))
  | 4 => .ok (.moveToUsp (regFld w 0))
  | 5 => .ok (.moveFromUsp (regFld w 0))
  | 6 =>
    match fld w 0 3 with
    | 0 => .ok .reset
    | 1 => .ok .nop
    | 2 => .ok .stop
    | 3 => .ok .rte
    | 5 => .ok .rts
    | 6 => .ok .trapv
    | 7 => .ok .rtr
    | _ => .error .unassigned
  | _ => .error .unassigned

/-- Group 0100 (R136): the miscellaneous instructions. -/
def decodeGroup4 (w : Word) : Except DecodeError Instr :=
  if fld w 8 1 = 1 then
    match fld w 6 2 with
    | 2 => withEa w (.chk (regFld w 9))
    | 3 => withEa w (.lea (regFld w 9))
    | _ => .error .unassigned
  else
    match fld w 9 3 with
    | 0 => withSizeEa w .negx (withEa w .moveFromSr)
    | 1 => withSizeEa w .clr (.error .unassigned)
    | 2 => withSizeEa w .neg (withEa w .moveToCcr)
    | 3 => withSizeEa w .not (withEa w .moveToSr)
    | 4 =>
      match fld w 6 2 with
      | 0 => withEa w .nbcd
      | 1 => if fld w 3 3 = 0 then .ok (.swap (regFld w 0)) else withEa w .pea
      | _ =>
        if fld w 3 3 = 0 then .ok (.ext (wideOf (fld w 6 1)) (regFld w 0))
        else if fld w 3 3 = 4 then .ok (.movemPredec (wideOf (fld w 6 1)) (regFld w 0))
        else withEa w (.movemToMem (wideOf (fld w 6 1)))
    | 5 =>
      if w.toNat = 0x4AFC then .ok .illegal
      else withSizeEa w .tst (withEa w .tas)
    | 6 => if fld w 7 1 = 1 then withEa w (.movemToRegs (wideOf (fld w 6 1))) else .error .unassigned
    | _ =>
      match fld w 6 2 with
      | 1 => decodeSystem w
      | 2 => withEa w .jsr
      | 3 => withEa w .jmp
      | _ => .error .unassigned

/-- Group 0101 (R136): ADDQ, SUBQ, Scc, DBcc. -/
def decodeGroup5 (w : Word) : Except DecodeError Instr :=
  withSizeEa w (fun sz ea => if fld w 8 1 = 0 then .addq sz (regFld w 9) ea else .subq sz (regFld w 9) ea)
    (if fld w 3 3 = 1 then .ok (.dbcc (Cond.decode (fld w 8 4)) (regFld w 0))
     else withEa w (.scc (Cond.decode (fld w 8 4))))

/-- Group 0110 (R136, R141): BRA, BSR, Bcc. -/
def decodeGroup6 (w : Word) : Except DecodeError Instr :=
  match fld w 8 4 with
  | 0 => .ok (.bra (BitVec.ofNat 8 (fld w 0 8)))
  | 1 => .ok (.bsr (BitVec.ofNat 8 (fld w 0 8)))
  | n => .ok (.bcc (Cond.decode n) (BitVec.ofNat 8 (fld w 0 8)))

/-- Group 1000 (R136): OR, DIVU, DIVS, SBCD. -/
def decodeGroup8 (w : Word) : Except DecodeError Instr :=
  if fld w 4 5 = 0x10 then .ok (.sbcd (pairOf (fld w 3 1)) (regFld w 9) (regFld w 0))
  else if fld w 8 1 = 0 then withSizeEa w (fun sz ea => .orToDn sz (regFld w 9) ea) (withEa w (.divu (regFld w 9)))
  else withSizeEa w (fun sz ea => .orToEa sz (regFld w 9) ea) (withEa w (.divs (regFld w 9)))

/-- Group 1001 (R136): SUB, SUBA, SUBX. -/
def decodeGroup9 (w : Word) : Except DecodeError Instr :=
  if fld w 6 2 = 3 then withEa w (.suba (wideOf (fld w 8 1)) (regFld w 9))
  else if fld w 8 1 = 0 then withSizeEa w (fun sz ea => .subToDn sz (regFld w 9) ea) (.error .unassigned)
  else if fld w 4 2 = 0 then
    withSize w (fun sz => .ok (.subx sz (pairOf (fld w 3 1)) (regFld w 9) (regFld w 0))) (.error .unassigned)
  else withSizeEa w (fun sz ea => .subToEa sz (regFld w 9) ea) (.error .unassigned)

/-- Group 1011 (R136): CMP, CMPA, CMPM, EOR. -/
def decodeGroupB (w : Word) : Except DecodeError Instr :=
  if fld w 6 2 = 3 then withEa w (.cmpa (wideOf (fld w 8 1)) (regFld w 9))
  else if fld w 8 1 = 0 then withSizeEa w (fun sz ea => .cmp sz (regFld w 9) ea) (.error .unassigned)
  else if fld w 3 3 = 1 then withSize w (fun sz => .ok (.cmpm sz (regFld w 9) (regFld w 0))) (.error .unassigned)
  else withSizeEa w (fun sz ea => .eor sz (regFld w 9) ea) (.error .unassigned)

/-- Group 1100 (R136): AND, MULU, MULS, ABCD, EXG. -/
def decodeGroupC (w : Word) : Except DecodeError Instr :=
  if fld w 4 5 = 0x10 then .ok (.abcd (pairOf (fld w 3 1)) (regFld w 9) (regFld w 0))
  else if fld w 3 6 = 0x28 then .ok (.exgDD (regFld w 9) (regFld w 0))
  else if fld w 3 6 = 0x29 then .ok (.exgAA (regFld w 9) (regFld w 0))
  else if fld w 3 6 = 0x31 then .ok (.exgDA (regFld w 9) (regFld w 0))
  else if fld w 8 1 = 0 then withSizeEa w (fun sz ea => .andToDn sz (regFld w 9) ea) (withEa w (.mulu (regFld w 9)))
  else withSizeEa w (fun sz ea => .andToEa sz (regFld w 9) ea) (withEa w (.muls (regFld w 9)))

/-- Group 1101 (R136): ADD, ADDA, ADDX. -/
def decodeGroupD (w : Word) : Except DecodeError Instr :=
  if fld w 6 2 = 3 then withEa w (.adda (wideOf (fld w 8 1)) (regFld w 9))
  else if fld w 8 1 = 0 then withSizeEa w (fun sz ea => .addToDn sz (regFld w 9) ea) (.error .unassigned)
  else if fld w 4 2 = 0 then
    withSize w (fun sz => .ok (.addx sz (pairOf (fld w 3 1)) (regFld w 9) (regFld w 0))) (.error .unassigned)
  else withSizeEa w (fun sz ea => .addToEa sz (regFld w 9) ea) (.error .unassigned)

/-- The memory shifts, by type `op[10:9]` and direction `op[8]` (43_shift_rotate.md R252). -/
def decodeMemShift (w : Word) : Except DecodeError Instr :=
  match fld w 8 3 with
  | 0 => withEa w .asrMem
  | 1 => withEa w .aslMem
  | 2 => withEa w .lsrMem
  | 3 => withEa w .lslMem
  | 4 => withEa w .roxrMem
  | 5 => withEa w .roxlMem
  | 6 => withEa w .rorMem
  | _ => withEa w .rolMem

/-- The register shifts, by type `op[4:3]` and direction `op[8]` (43_shift_rotate.md R251). -/
def decodeRegShift (w : Word) (sz : Size) : Instr :=
  let cnt := if fld w 5 1 = 1 then ShiftCount.reg (regFld w 9) else ShiftCount.quick (regFld w 9)
  let dn := regFld w 0
  match fld w 3 2, fld w 8 1 with
  | 0, 0 => .asrReg sz cnt dn
  | 0, _ => .aslReg sz cnt dn
  | 1, 0 => .lsrReg sz cnt dn
  | 1, _ => .lslReg sz cnt dn
  | 2, 0 => .roxrReg sz cnt dn
  | 2, _ => .roxlReg sz cnt dn
  | _, 0 => .rorReg sz cnt dn
  | _, _ => .rolReg sz cnt dn

/-- Group 1110 (R136): the shifts and rotates. -/
def decodeGroupE (w : Word) : Except DecodeError Instr :=
  withSize w (fun sz => .ok (decodeRegShift w sz)) (if fld w 11 1 = 0 then decodeMemShift w else .error .unassigned)

/-- The sixteen major groups, by `op[15:12]` (R135), before the operands' legality. -/
def decodePattern (w : Word) : Except DecodeError Instr :=
  match fld w 12 4 with
  | 0 => decodeGroup0 w
  | 1 => decodeMove .b w
  | 2 => decodeMove .l w
  | 3 => decodeMove .w w
  | 4 => decodeGroup4 w
  | 5 => decodeGroup5 w
  | 6 => decodeGroup6 w
  | 7 => if fld w 8 1 = 0 then .ok (.moveq (BitVec.ofNat 8 (fld w 0 8)) (regFld w 9)) else .error .unassigned
  | 8 => decodeGroup8 w
  | 9 => decodeGroup9 w
  | 10 => .ok (.lineA (BitVec.ofNat 12 (fld w 0 12)))
  | 11 => decodeGroupB w
  | 12 => decodeGroupC w
  | 13 => decodeGroupD w
  | 14 => decodeGroupE w
  | _ => .ok (.lineF (BitVec.ofNat 12 (fld w 0 12)))

/-- The instruction of an operation word; an operand outside the instruction's list is refused (R124). -/
def decode (w : Word) : Except DecodeError Instr :=
  match decodePattern w with
  | .ok i => if i.wf then .ok i else .error .operandNotAllowed
  | .error e => .error e

/-- The instruction at the head of a list of bytes, and the bytes after its operation word. The high-order byte of
a word comes first (20_memory.md R63). -/
def decodeBytes : List Byte → Except DecodeError (Instr × List Byte)
  | hi :: lo :: rest =>
    match decode (hi ++ lo) with
    | .ok i => .ok (i, rest)
    | .error e => .error e
  | _ => .error .truncated

/-- The longest instruction has five words (R101). -/
def maxWords : Nat := 5

/-- The five words of a table instruction whose bits are w: word k is bits 16k+15 to 16k, and every bit above
nbits is 0. -/
def tableWords (nbits w : Nat) : List Word :=
  (List.range maxWords).map fun k => BitVec.ofNat 16 (w % 2 ^ nbits / 2 ^ (16 * k))

/-- The bytes of words as the hardware stores them, high-order byte first (20_memory.md R63). -/
def bytesOf (ws : List Word) : List Byte :=
  ws.flatMap fun v => [v.extractLsb' 8 8, v.extractLsb' 0 8]

/-- The instruction that the decoder reads from a row of spec/opcode_table.json whose bits are w. -/
def decodeTableWord (nbits w : Nat) : Option Instr :=
  match decodeBytes (bytesOf (tableWords nbits w)) with
  | .ok (i, _) => some i
  | .error _ => none

/-- The fields of a brief-format extension word; bits 10 to 8 are ignored (R116, D32). -/
def BriefExt.decode (w : Word) : BriefExt :=
  { isAddr := w.getLsbD 15, reg := regFld w 12, isLong := w.getLsbD 11, disp := w.extractLsb' 0 8 }

/-! The encoder. -/

/-- The value of a one-bit field. -/
def bitCode (b : Bool) : Nat := if b then 1 else 0

/-- The general size field (R105a). -/
def Size.code : Size → Nat
  | .b => 0
  | .w => 1
  | .l => 2

/-- The size field of MOVE and MOVEA (R105b). -/
def Size.moveCode : Size → Nat
  | .b => 1
  | .w => 3
  | .l => 2

/-- The one-bit size field (R105c). -/
def Size.wideCode : Size → Nat
  | .l => 1
  | _ => 0

/-- The mode value of an effective address (R108). -/
def Ea.mode : Ea → Nat
  | .dn _ => 0
  | .an _ => 1
  | .ind _ => 2
  | .post _ => 3
  | .pre _ => 4
  | .disp _ => 5
  | .index _ => 6
  | .absW | .absL | .pcDisp | .pcIndex | .imm => 7

/-- The register value of an effective address (R108). -/
def Ea.regCode : Ea → Nat
  | .dn n | .an n | .ind n | .post n | .pre n | .disp n | .index n => n.val
  | .absW => 0
  | .absL => 1
  | .pcDisp => 2
  | .pcIndex => 3
  | .imm => 4

/-- The six bits of an effective-address field, mode over register (R103). -/
def Ea.code (ea : Ea) : Nat := ea.mode * 8 + ea.regCode

/-- The six bits of MOVE's destination field, register over mode (R103). -/
def Ea.dstCode (ea : Ea) : Nat := ea.regCode * 8 + ea.mode

/-- The four bits of a condition (R140). -/
def Cond.code : Cond → Nat
  | .t => 0 | .f => 1 | .hi => 2 | .ls => 3 | .cc => 4 | .cs => 5 | .ne => 6 | .eq => 7
  | .vc => 8 | .vs => 9 | .pl => 10 | .mi => 11 | .ge => 12 | .lt => 13 | .gt => 14 | .le => 15

/-- The R/M bit (R133). -/
def PairMode.code : PairMode → Nat
  | .regs => 0
  | .mem => 1

/-- The fields ccc and i of a register shift (43_shift_rotate.md R251). -/
def ShiftCount.code : ShiftCount → Nat
  | .quick q => q.val * 512
  | .reg n => n.val * 512 + 32

/-- Base word, general size and operand. -/
def encSizeEa (base : Nat) (sz : Size) (ea : Ea) : Nat := base + sz.code * 64 + ea.code

/-- Base word, register in `op[11:9]`, general size and operand. -/
def encRegSizeEa (base : Nat) (n : RegNo) (sz : Size) (ea : Ea) : Nat := base + n.val * 512 + sz.code * 64 + ea.code

/-- Base word, registers in `op[11:9]` and `op[2:0]`. -/
def encPair (base : Nat) (x y : RegNo) : Nat := base + x.val * 512 + y.val

/-- Base word of a register shift: type and direction (43_shift_rotate.md R251). -/
def encShift (base : Nat) (sz : Size) (cnt : ShiftCount) (dn : RegNo) : Nat :=
  base + cnt.code + sz.code * 64 + dn.val

/-- The operation word of an instruction as a number, from the encoding its rule gives. -/
def Instr.opNat : Instr → Nat
  | .ori sz ea => encSizeEa 0x0000 sz ea
  | .oriToCcr => 0x003C
  | .oriToSr => 0x007C
  | .andi sz ea => encSizeEa 0x0200 sz ea
  | .andiToCcr => 0x023C
  | .andiToSr => 0x027C
  | .subi sz ea => encSizeEa 0x0400 sz ea
  | .addi sz ea => encSizeEa 0x0600 sz ea
  | .eori sz ea => encSizeEa 0x0A00 sz ea
  | .eoriToCcr => 0x0A3C
  | .eoriToSr => 0x0A7C
  | .cmpi sz ea => encSizeEa 0x0C00 sz ea
  | .btstImm ea => 0x0800 + ea.code
  | .btstReg n ea => 0x0100 + n.val * 512 + ea.code
  | .bchgImm ea => 0x0840 + ea.code
  | .bchgReg n ea => 0x0140 + n.val * 512 + ea.code
  | .bclrImm ea => 0x0880 + ea.code
  | .bclrReg n ea => 0x0180 + n.val * 512 + ea.code
  | .bsetImm ea => 0x08C0 + ea.code
  | .bsetReg n ea => 0x01C0 + n.val * 512 + ea.code
  | .movep toMem sz dn an => encPair 0x0108 dn an + bitCode toMem * 128 + sz.wideCode * 64
  | .move sz src dst => sz.moveCode * 4096 + dst.dstCode * 64 + src.code
  | .movea sz src an => 0x0040 + sz.moveCode * 4096 + an.val * 512 + src.code
  | .negx sz ea => encSizeEa 0x4000 sz ea
  | .moveFromSr ea => 0x40C0 + ea.code
  | .chk dn ea => 0x4180 + dn.val * 512 + ea.code
  | .lea an ea => 0x41C0 + an.val * 512 + ea.code
  | .clr sz ea => encSizeEa 0x4200 sz ea
  | .neg sz ea => encSizeEa 0x4400 sz ea
  | .moveToCcr ea => 0x44C0 + ea.code
  | .not sz ea => encSizeEa 0x4600 sz ea
  | .moveToSr ea => 0x46C0 + ea.code
  | .nbcd ea => 0x4800 + ea.code
  | .swap dn => 0x4840 + dn.val
  | .pea ea => 0x4840 + ea.code
  | .ext sz dn => 0x4880 + sz.wideCode * 64 + dn.val
  | .movemToMem sz ea => 0x4880 + sz.wideCode * 64 + ea.code
  | .movemPredec sz an => 0x48A0 + sz.wideCode * 64 + an.val
  | .tst sz ea => encSizeEa 0x4A00 sz ea
  | .tas ea => 0x4AC0 + ea.code
  | .illegal => 0x4AFC
  | .movemToRegs sz ea => 0x4C80 + sz.wideCode * 64 + ea.code
  | .trap n => 0x4E40 + n.val
  | .link an => 0x4E50 + an.val
  | .unlk an => 0x4E58 + an.val
  | .moveToUsp an => 0x4E60 + an.val
  | .moveFromUsp an => 0x4E68 + an.val
  | .reset => 0x4E70
  | .nop => 0x4E71
  | .stop => 0x4E72
  | .rte => 0x4E73
  | .rts => 0x4E75
  | .trapv => 0x4E76
  | .rtr => 0x4E77
  | .jsr ea => 0x4E80 + ea.code
  | .jmp ea => 0x4EC0 + ea.code
  | .addq sz q ea => encRegSizeEa 0x5000 q sz ea
  | .subq sz q ea => encRegSizeEa 0x5100 q sz ea
  | .scc c ea => 0x50C0 + c.code * 256 + ea.code
  | .dbcc c dn => 0x50C8 + c.code * 256 + dn.val
  | .bra d => 0x6000 + d.toNat
  | .bsr d => 0x6100 + d.toNat
  | .bcc c d => 0x6000 + c.code * 256 + d.toNat
  | .moveq d dn => 0x7000 + dn.val * 512 + d.toNat
  | .orToDn sz dn ea => encRegSizeEa 0x8000 dn sz ea
  | .orToEa sz dn ea => encRegSizeEa 0x8100 dn sz ea
  | .divu dn ea => 0x80C0 + dn.val * 512 + ea.code
  | .divs dn ea => 0x81C0 + dn.val * 512 + ea.code
  | .sbcd m x y => encPair 0x8100 x y + m.code * 8
  | .subToDn sz dn ea => encRegSizeEa 0x9000 dn sz ea
  | .subToEa sz dn ea => encRegSizeEa 0x9100 dn sz ea
  | .suba sz an ea => 0x90C0 + an.val * 512 + sz.wideCode * 256 + ea.code
  | .subx sz m x y => encPair 0x9100 x y + sz.code * 64 + m.code * 8
  | .addToDn sz dn ea => encRegSizeEa 0xD000 dn sz ea
  | .addToEa sz dn ea => encRegSizeEa 0xD100 dn sz ea
  | .adda sz an ea => 0xD0C0 + an.val * 512 + sz.wideCode * 256 + ea.code
  | .addx sz m x y => encPair 0xD100 x y + sz.code * 64 + m.code * 8
  | .cmp sz dn ea => encRegSizeEa 0xB000 dn sz ea
  | .cmpa sz an ea => 0xB0C0 + an.val * 512 + sz.wideCode * 256 + ea.code
  | .eor sz dn ea => encRegSizeEa 0xB100 dn sz ea
  | .cmpm sz x y => encPair 0xB108 x y + sz.code * 64
  | .andToDn sz dn ea => encRegSizeEa 0xC000 dn sz ea
  | .andToEa sz dn ea => encRegSizeEa 0xC100 dn sz ea
  | .mulu dn ea => 0xC0C0 + dn.val * 512 + ea.code
  | .muls dn ea => 0xC1C0 + dn.val * 512 + ea.code
  | .abcd m x y => encPair 0xC100 x y + m.code * 8
  | .exgDD x y => encPair 0xC140 x y
  | .exgAA x y => encPair 0xC148 x y
  | .exgDA x y => encPair 0xC188 x y
  | .aslReg sz cnt dn => encShift 0xE100 sz cnt dn
  | .aslMem ea => 0xE1C0 + ea.code
  | .asrReg sz cnt dn => encShift 0xE000 sz cnt dn
  | .asrMem ea => 0xE0C0 + ea.code
  | .lslReg sz cnt dn => encShift 0xE108 sz cnt dn
  | .lslMem ea => 0xE3C0 + ea.code
  | .lsrReg sz cnt dn => encShift 0xE008 sz cnt dn
  | .lsrMem ea => 0xE2C0 + ea.code
  | .rolReg sz cnt dn => encShift 0xE118 sz cnt dn
  | .rolMem ea => 0xE7C0 + ea.code
  | .rorReg sz cnt dn => encShift 0xE018 sz cnt dn
  | .rorMem ea => 0xE6C0 + ea.code
  | .roxlReg sz cnt dn => encShift 0xE110 sz cnt dn
  | .roxlMem ea => 0xE5C0 + ea.code
  | .roxrReg sz cnt dn => encShift 0xE010 sz cnt dn
  | .roxrMem ea => 0xE4C0 + ea.code
  | .lineA low => 0xA000 + low.toNat
  | .lineF low => 0xF000 + low.toNat

/-- The words that carry an instruction's fields: its operation word. The extension words after it are operands in
the instruction stream, not fields of `Instr` (log 18). -/
def encode (i : Instr) : List Word := [BitVec.ofNat 16 i.opNat]

/-- The brief-format extension word (R116), bits 10 to 8 zero. -/
def BriefExt.encode (e : BriefExt) : Word :=
  BitVec.ofNat 16 (bitCode e.isAddr * 32768 + e.reg.val * 4096 + bitCode e.isLong * 2048 + e.disp.toNat)

/-- How many extension words an operand has (R108, R120). -/
def Ea.extWords (sz : Size) : Ea → Nat
  | .dn _ | .an _ | .ind _ | .post _ | .pre _ => 0
  | .disp _ | .index _ | .absW | .pcDisp | .pcIndex => 1
  | .absL => 2
  | .imm => if sz = .l then 2 else 1

/-- How many extension words an immediate has (R106). -/
def immWords (sz : Size) : Nat := if sz = .l then 2 else 1

/-- How many extension words the operation word announces (R100, R102). -/
def Instr.extWords : Instr → Nat
  | .ori sz ea | .andi sz ea | .subi sz ea | .addi sz ea | .eori sz ea | .cmpi sz ea => immWords sz + ea.extWords sz
  | .oriToCcr | .oriToSr | .andiToCcr | .andiToSr | .eoriToCcr | .eoriToSr => 1
  | .btstImm ea | .bchgImm ea | .bclrImm ea | .bsetImm ea => 1 + ea.extWords .b
  | .btstReg _ ea | .bchgReg _ ea | .bclrReg _ ea | .bsetReg _ ea => ea.extWords .b
  | .movep _ _ _ _ | .link _ | .dbcc _ _ | .stop => 1
  | .move sz src dst => src.extWords sz + dst.extWords sz
  | .movea sz src _ => src.extWords sz
  | .negx sz ea | .clr sz ea | .neg sz ea | .not sz ea | .tst sz ea => ea.extWords sz
  | .moveFromSr ea | .chk _ ea | .moveToCcr ea | .moveToSr ea => ea.extWords .w
  | .lea _ ea | .pea ea | .jsr ea | .jmp ea => ea.extWords .l
  | .nbcd ea | .tas ea | .scc _ ea => ea.extWords .b
  | .movemToMem sz ea | .movemToRegs sz ea => 1 + ea.extWords sz
  | .movemPredec _ _ => 1
  | .addq sz _ ea | .subq sz _ ea => ea.extWords sz
  | .bra d | .bsr d | .bcc _ d => if d = 0 then 1 else 0
  | .orToDn sz _ ea | .orToEa sz _ ea | .subToDn sz _ ea | .subToEa sz _ ea => ea.extWords sz
  | .addToDn sz _ ea | .addToEa sz _ ea | .andToDn sz _ ea | .andToEa sz _ ea => ea.extWords sz
  | .suba sz _ ea | .adda sz _ ea | .cmpa sz _ ea | .cmp sz _ ea | .eor sz _ ea => ea.extWords sz
  | .divu _ ea | .divs _ ea | .mulu _ ea | .muls _ ea => ea.extWords .w
  | .aslMem ea | .asrMem ea | .lslMem ea | .lsrMem ea => ea.extWords .w
  | .rolMem ea | .rorMem ea | .roxlMem ea | .roxrMem ea => ea.extWords .w
  | .swap _ | .ext _ _ | .illegal | .trap _ | .unlk _ | .moveToUsp _ | .moveFromUsp _ => 0
  | .reset | .nop | .rte | .rts | .trapv | .rtr | .moveq _ _ => 0
  | .sbcd _ _ _ | .abcd _ _ _ | .subx _ _ _ _ | .addx _ _ _ _ | .cmpm _ _ _ => 0
  | .exgDD _ _ | .exgAA _ _ | .exgDA _ _ => 0
  | .aslReg _ _ _ | .asrReg _ _ _ | .lslReg _ _ _ | .lsrReg _ _ _ => 0
  | .rolReg _ _ _ | .rorReg _ _ _ | .roxlReg _ _ _ | .roxrReg _ _ _ => 0
  | .lineA _ | .lineF _ => 0

/-- The length of an instruction in bytes (R101). -/
def Instr.bytes (i : Instr) : Nat := 2 + 2 * i.extWords

end Sys2Proof
end

