-- ==== Sys2Proof/Machine/Flags.lean ====
section
/-! DEFINITION. The condition codes and every result and flag computation of the spec, as functions of the operands:
addition and subtraction (41_integer_arithmetic.md R190), logic and moves (40_data_movement.md R160), decimal
arithmetic (45_bcd.md R283), shifts (43_shift_rotate.md R254), multiply and divide (R210 to R215), conditions
(30_encoding.md R140). -/

namespace Sys2Proof.Machine

/-- The five condition codes (10_state.md R31 to R35). -/
structure Ccr where
  x : Bool
  n : Bool
  z : Bool
  v : Bool
  c : Bool
deriving DecidableEq, Repr

/-- The condition codes of a status word: bits 4 to 0 are X, N, Z, V, C (10_state.md R30). -/
def ccrOf (sr : Word) : Ccr :=
  { x := sr.getLsbD 4, n := sr.getLsbD 3, z := sr.getLsbD 2, v := sr.getLsbD 1, c := sr.getLsbD 0 }

/-- A status word with its condition codes replaced and bits 15 to 5 kept. -/
def withCcr (sr : Word) (f : Ccr) : Word :=
  sr.extractLsb' 5 11 ++ (BitVec.ofBool f.x ++ (BitVec.ofBool f.n ++ (BitVec.ofBool f.z ++
    (BitVec.ofBool f.v ++ BitVec.ofBool f.c))))

/-- The implemented bits of SR, `$A71F` (47_system_control.md R321). -/
def srMask : Word := 0xA71F

/-- The truth of a condition (30_encoding.md R140). -/
def condHolds (cond : Cond) (f : Ccr) : Bool :=
  match cond with
  | .t => true
  | .f => false
  | .hi => !f.c && !f.z
  | .ls => f.c || f.z
  | .cc => !f.c
  | .cs => f.c
  | .ne => !f.z
  | .eq => f.z
  | .vc => !f.v
  | .vs => f.v
  | .pl => !f.n
  | .mi => f.n
  | .ge => (f.n && f.v) || (!f.n && !f.v)
  | .lt => (f.n && !f.v) || (!f.n && f.v)
  | .gt => (f.n && f.v && !f.z) || (!f.n && !f.v && !f.z)
  | .le => f.z || (f.n && !f.v) || (!f.n && f.v)

/-- A result with its overflow and its carry or borrow. -/
structure Alu (n : Nat) where
  r : BitVec n
  v : Bool
  c : Bool
deriving DecidableEq, Repr

/-- The integer lies outside the signed range of n bits. -/
def outsideSigned (n : Nat) (t : Int) : Bool := decide (t < -2 ^ (n - 1)) || decide (2 ^ (n - 1) - 1 < t)

/-- The value of a carry-in flag. -/
def carryIn (x : Bool) : Nat := if x then 1 else 0

/-- `Add(d, s, x, size)` of 41_integer_arithmetic.md R190. -/
def aluAdd {n : Nat} (d s : BitVec n) (x : Bool) : Alu n :=
  { r := BitVec.ofNat n (d.toNat + s.toNat + carryIn x)
    v := outsideSigned n (d.toInt + s.toInt + carryIn x)
    c := decide (2 ^ n ≤ d.toNat + s.toNat + carryIn x) }

/-- `Sub(d, s, x, size)`, which computes d − s − x (41_integer_arithmetic.md R190). -/
def aluSub {n : Nat} (d s : BitVec n) (x : Bool) : Alu n :=
  { r := BitVec.ofInt n ((d.toNat : Int) - s.toNat - carryIn x)
    v := outsideSigned n (d.toInt - s.toInt - carryIn x)
    c := decide ((d.toNat : Int) - s.toNat - carryIn x < 0) }

/-- All five flags from a sum or difference, X equal to C (R190). -/
def arithFlags {n : Nat} (o : Alu n) : Ccr :=
  { x := o.c, n := o.r.msb, z := decide (o.r = 0), v := o.v, c := o.c }

/-- The flags of the multi-precision instructions: Z only cleared, never set (R196). -/
def stickyFlags {n : Nat} (f : Ccr) (o : Alu n) : Ccr :=
  { arithFlags o with z := f.z && decide (o.r = 0) }

/-- The flags of a comparison: X unchanged (R205). -/
def compareFlags {n : Nat} (f : Ccr) (o : Alu n) : Ccr := { arithFlags o with x := f.x }

/-- `MoveFlags(v, size)` (40_data_movement.md R160). -/
def moveFlags {n : Nat} (f : Ccr) (v : BitVec n) : Ccr :=
  { x := f.x, n := v.msb, z := decide (v = 0), v := false, c := false }

/-! Decimal arithmetic (45_bcd.md R283). -/

/-- Both nibbles are decimal digits. -/
def isBcd (b : Byte) : Bool := decide (b.toNat % 16 ≤ 9) && decide (b.toNat / 16 ≤ 9)

/-- `BcdAdd(d, s, x)`: the result byte and the decimal carry. -/
def bcdAdd (d s : Byte) (x : Bool) : Byte × Bool :=
  let lo := d.toNat % 16 + s.toNat % 16 + carryIn x
  let c1 := decide (9 < lo)
  let lo' := if c1 then lo - 10 else lo
  let hi := d.toNat / 16 + s.toNat / 16 + carryIn c1
  let c := decide (9 < hi)
  let hi' := if c then hi - 10 else hi
  (BitVec.ofNat 8 (16 * hi' + lo'), c)

/-- `BcdSub(d, s, x)`: the byte of d − s − x and the decimal borrow. -/
def bcdSub (d s : Byte) (x : Bool) : Byte × Bool :=
  let lo : Int := (d.toNat % 16 : Nat) - (s.toNat % 16 : Nat) - carryIn x
  let b1 := decide (lo < 0)
  let lo' := if b1 then lo + 10 else lo
  let hi : Int := (d.toNat / 16 : Nat) - (s.toNat / 16 : Nat) - carryIn b1
  let b := decide (hi < 0)
  let hi' := if b then hi + 10 else hi
  (BitVec.ofInt 8 (16 * hi' + lo'), b)

/-! Shifts and rotates (43_shift_rotate.md R254 to R262). -/

/-- The eight operations. -/
inductive ShiftOp where
  | asl
  | asr
  | lsl
  | lsr
  | rol
  | ror
  | roxl
  | roxr
deriving DecidableEq, Repr

/-- The operand and the flags X, C, V in the course of a shift. -/
structure ShiftState (n : Nat) where
  val : BitVec n
  x : Bool
  c : Bool
  v : Bool
deriving DecidableEq, Repr

/-- The bit b at the bottom of n bits. -/
def lowBit (n : Nat) (b : Bool) : BitVec n := BitVec.ofNat n (carryIn b)

/-- The bit b at the top of n bits. -/
def topBit (n : Nat) (b : Bool) : BitVec n := BitVec.ofNat n (carryIn b) <<< (n - 1)

/-- One step of an operation: `(v, out) <- step(v)` with the flags it writes (R254 to R262). -/
def shiftStep {n : Nat} (op : ShiftOp) (st : ShiftState n) : ShiftState n :=
  let top := st.val.msb
  let bottom := st.val.getLsbD 0
  match op with
  | .asl => { val := st.val <<< 1, x := top, c := top, v := st.v || (st.val <<< 1).msb != top }
  | .asr => { val := st.val >>> 1 ||| topBit n top, x := bottom, c := bottom, v := st.v }
  | .lsl => { val := st.val <<< 1, x := top, c := top, v := st.v }
  | .lsr => { val := st.val >>> 1, x := bottom, c := bottom, v := st.v }
  | .rol => { val := st.val <<< 1 ||| lowBit n top, x := st.x, c := top, v := st.v }
  | .ror => { val := st.val >>> 1 ||| topBit n bottom, x := st.x, c := bottom, v := st.v }
  | .roxl => { val := st.val <<< 1 ||| lowBit n st.x, x := top, c := top, v := st.v }
  | .roxr => { val := st.val >>> 1 ||| topBit n st.x, x := bottom, c := bottom, v := st.v }

/-- The step, count times. -/
def shiftSteps {n : Nat} (op : ShiftOp) : Nat → ShiftState n → ShiftState n
  | 0, st => st
  | k + 1, st => shiftSteps op k (shiftStep op st)

/-- ROXL and ROXR take their first bit from X; with a count of zero they copy X to C (R253). -/
def ShiftOp.throughX : ShiftOp → Bool
  | .roxl | .roxr => true
  | _ => false

/-- The whole operation: V starts clear, C starts as R254 says for a count of zero. -/
def shiftRun {n : Nat} (op : ShiftOp) (count : Nat) (v : BitVec n) (x : Bool) : ShiftState n :=
  shiftSteps op count { val := v, x := x, c := op.throughX && x, v := false }

/-- The flags of a shift: N and Z from the result (R254). -/
def shiftFlags {n : Nat} (st : ShiftState n) : Ccr :=
  { x := st.x, n := st.val.msb, z := decide (st.val = 0), v := st.v, c := st.c }

/-! Multiplication and division (41_integer_arithmetic.md R210 to R215). -/

/-- The unsigned product, 32 bits (R210). -/
def mulUnsigned (d s : Word) : Long := BitVec.ofNat 32 (d.toNat * s.toNat)

/-- The signed product, 32 bits (R211). -/
def mulSigned (d s : Word) : Long := BitVec.ofInt 32 (d.toInt * s.toInt)

/-- Quotient and remainder of the unsigned division; none where the quotient needs more than 16 bits (R213, R215).
The divisor is not zero. -/
def divUnsigned (d : Long) (s : Word) : Option (Word × Word) :=
  if d.toNat / s.toNat ≤ 0xFFFF then
    some (BitVec.ofNat 16 (d.toNat / s.toNat), BitVec.ofNat 16 (d.toNat % s.toNat))
  else none

/-- Quotient, truncated toward zero, and remainder, with the dividend's sign, of the signed division; none where the
quotient needs more than 16 bits (R214, R215). The divisor is not zero. -/
def divSigned (d : Long) (s : Word) : Option (Word × Word) :=
  if outsideSigned 16 (Int.tdiv d.toInt s.toInt) then none
  else some (BitVec.ofInt 16 (Int.tdiv d.toInt s.toInt), BitVec.ofInt 16 (Int.tmod d.toInt s.toInt))

/-- A word or long operand as 32 bits: the word is sign-extended (10_state.md R24). -/
def extendOperand : (sz : Size) → BitVec sz.bits → Long
  | .b, v => v.signExtend 32
  | .w, v => v.signExtend 32
  | .l, v => v

end Sys2Proof.Machine
end

