-- ==== Sys2Proof/Config.lean ====
section
/-! DEFINITION. The free values: constants with no body, which stand for every `any()` of the spec
(00_scope.md R12, 93_implementation_defined.md). Nothing can be proved of their values. -/

namespace Sys2Proof

/-- The value of the n-th free draw, 32 bits of which a use takes as many as it needs (log 6). -/
opaque Config.free : Nat → Long

/-- Whether, in the n-th free draw, the memory cell of the given key keeps the value it had before an
instruction that a bus or address error cut off (60_exceptions.md R373, U19; log 7). -/
opaque Config.keepsOld : Nat → Nat → Bool

/-- The value of the memory cell of the given key while nothing has written it: one byte for each cell, kept
(20_memory.md R87, U3, D29; log 2). -/
opaque Config.unwritten : Nat → Byte

end Sys2Proof
end

