-- ==== Sys2Proof/Machine/State.lean ====
section
/-! DEFINITION. The state of the MC68000 (10_state.md R20) and the platform's parameters as plain data, the reasons a
step can stop, and the state after reset (10_state.md R50). -/

namespace Sys2Proof.Machine

/-- The three run states (10_state.md R47). -/
inductive RunState where
  /-- It fetches and executes instructions. -/
  | running
  /-- Entered by STOP; left by an interrupt, by trace or by reset (60_exceptions.md R425). -/
  | stopped
  /-- Entered after a double bus fault; left by external reset only (60_exceptions.md R410, R427). -/
  | halted
deriving DecidableEq, Repr

/-- The window of a double bus fault, from the entry of a group-0 exception until the next instruction is fetched
(60_exceptions.md R410, 70_reset_and_hazards.md R432; log 11). -/
inductive FaultWindow where
  /-- No group-0 exception is being processed. -/
  | none
  /-- A bus or address error was taken and its handler's first instruction is not yet fetched. -/
  | error
  /-- The reset vector was loaded and the first instruction is not yet fetched. -/
  | reset
deriving DecidableEq, Repr

/-- How the platform answers a bus cycle in the end (20_memory.md R71, R82). -/
inductive Reply where
  /-- DTACK: a read gives the memory's bytes, a write stores them. -/
  | data
  /-- DTACK: a read gives the memory's bytes, a write is ignored (read-only memory). -/
  | readOnly
  /-- BERR: the cycle ends in a bus error. -/
  | busError
  /-- No answer ever. -/
  | silent
  /-- DTACK from a device: a read gives whatever the device supplies, a write is the device's to take; memory does not
  change (R82, log 20). -/
  | device
deriving DecidableEq, Repr

/-- One region of the platform's memory map, the open parameter `mem_map`, with its usual answers (D16, log 4). -/
structure Region where
  /-- first address, 24 bits -/
  first : Nat
  /-- last address -/
  last : Nat
  /-- the function codes it answers (10_state.md R43) -/
  codes : List (BitVec 3)
  /-- which memory of the platform stands behind it: different function codes may select different ones (R62) -/
  bank : Nat
  /-- the answer to a read cycle -/
  onRead : Reply
  /-- the answer to a write cycle -/
  onWrite : Reply
deriving DecidableEq, Repr

/-- One entry of the open parameter `bus_response` (20_memory.md R71, D17; log 4), which goes before the answers of the
regions: the cycles it speaks of, by address, function code, direction, size and data, and the answer to them. -/
structure Response where
  /-- first address, 24 bits -/
  first : Nat
  /-- last address -/
  last : Nat
  /-- the function codes it speaks of -/
  codes : List (BitVec 3)
  /-- read cycles, else write cycles -/
  read : Bool
  /-- word cycles, else byte cycles -/
  wide : Bool
  /-- the bits of the written data that it looks at -/
  mask : Word
  /-- and what they must be -/
  value : Word
  /-- the final answer -/
  reply : Reply
  /-- the platform asks for a retry first, BERR with HALT, and gives the final answer when the cycle is repeated (R73,
  60_exceptions.md R428) -/
  retry : Bool
deriving DecidableEq, Repr

/-- The platform's open parameters, which the processor never changes (92_eei_decisions.md D16, D17, D19; log 4). -/
structure Platform where
  /-- the map, the first region that matches; where none does, plain memory of bank 0 (D16) -/
  memMap : List Region
  /-- the answers that go before those of the map, the first entry that matches (D17) -/
  responses : List Response
  /-- an operand in a PC-relative mode is read in program space, else in data space (20_memory.md R80, G15) -/
  pcRelProgram : Bool
  /-- where a run ends: the platform's set of PC values (00_scope.md R15, D19; log 29) -/
  endPcs : List Long
deriving DecidableEq, Repr

/-- Plain memory at every address, and a run that ends nowhere (log 4, 23, 29). -/
def Platform.plain : Platform where
  memMap := []
  responses := []
  pcRelProgram := true
  endPcs := []

/-- The platform's answer to an interrupt acknowledge cycle (60_exceptions.md R397). -/
inductive Acknowledge where
  /-- DTACK with a vector number -/
  | vector (v : Byte)
  /-- VPA: autovector -/
  | autovector
  /-- BERR: spurious interrupt -/
  | spurious
  /-- no answer ever (D18) -/
  | silent
deriving DecidableEq, Repr

/-- What the outside presents at one instruction boundary and in the step that follows it (60_exceptions.md R395, R399;
70_reset_and_hazards.md R433). -/
structure Sample where
  /-- RESET and HALT asserted together from outside, after so many bus cycles of the step: 0 at the boundary itself, more
  in the course of the instruction or exception processing, which it cuts off (60_exceptions.md R362, R375) -/
  reset : Option Nat
  /-- the level on IPL2 to IPL0, 0 for no request -/
  level : BitVec 3
  /-- how an acknowledge of this boundary would be answered -/
  ack : Acknowledge
deriving DecidableEq, Repr

/-- Memory: (cell, byte) pairs in canonical form. A cell's key is `bank · 2^24 + address` (20_memory.md R60, R62). An
unlisted cell has no value yet; it reads as its own free byte (R87, D29; log 2). -/
abbrev Memory := List Host.Cell

/-- The canonical form: keys strictly rising. An unlisted cell has no value, so no entry can repeat it. -/
abbrev Memory.wf (m : Memory) : Prop := m.Pairwise fun a b => a.1 < b.1

/-- The machine (10_state.md R20), the platform's parameters and the counter of free draws. -/
structure State where
  /-- D0 to D7 (R21) -/
  d : Vector Long 8
  /-- A0 to A6 (R23) -/
  a : Vector Long 7
  /-- user stack pointer (R26) -/
  usp : Long
  /-- supervisor stack pointer (R26) -/
  ssp : Long
  /-- program counter: the next instruction-stream word not yet consumed (R28) -/
  pc : Long
  /-- status register, with the condition codes in bits 4 to 0 (R30) -/
  sr : Word
  /-- the operation word of the instruction in progress (R45) -/
  ir : Word
  /-- running, stopped or halted (R47) -/
  run : RunState
  /-- the interrupt level last sampled (R46) -/
  ipl : BitVec 3
  /-- a transition to level 7 not yet acknowledged (60_exceptions.md R396) -/
  nmiPending : Bool
  /-- a trace exception is due at the next boundary (60_exceptions.md R392) -/
  tracePending : Bool
  /-- the double-fault window (60_exceptions.md R410) -/
  window : FaultWindow
  /-- words of the prefetch window that a store has replaced: their cell and the word the queue may still hold
  (70_reset_and_hazards.md R450, D3; log 10) -/
  stale : List (Nat × Word)
  /-- memory (20_memory.md R60) -/
  mem : Memory
  /-- the platform's open parameters (D16, D17, D19) -/
  platform : Platform
  /-- the outside's inputs, one per instruction boundary; none left means nothing is requested (D18) -/
  inputs : List Sample
  /-- how many bus cycles are still to end before an external reset that comes in the course of this step; none: no
  reset comes (70_reset_and_hazards.md R433; log 5) -/
  resetIn : Option Nat
  /-- how often the RESET instruction has driven the RESET pin (47_system_control.md R339, D26) -/
  deviceResets : Nat
  /-- the MODEL's counter of free draws (log 6) -/
  draws : Nat
deriving DecidableEq, Repr

/-- Why the machine stops. Each is a stuck state of the spec, not an exception: safe. -/
inductive Fault where
  /-- A step of a machine halted by a double bus fault, with no further input that could reset it (60_exceptions.md
  R410, R427, U22). Raised by `step`. Safe. -/
  | halted
  /-- A bus cycle that nothing ever answers, in a step in which no reset comes: the processor waits for ever
  (20_memory.md R71, U21). Raised by every bus cycle. Safe. -/
  | busHang
deriving DecidableEq, Repr

/-- Why a step has no meaning. -/
inductive Refusal where
  /-- An instruction without a meaning yet. Raised by `exec`'s arms only. Safe. -/
  | notModelled (mnemonic : String)
  /-- An operand that no encoding of the instruction has (30_encoding.md R123). Raised by the operand operations on an
  ill-formed instruction, which no operation word decodes to (log 19). Safe. -/
  | notAnOperand
deriving DecidableEq, Repr

/-- The machine right after reset (10_state.md R50): S set, T clear, mask 7, SSP and PC loaded from the reset vector,
whose eight bytes the platform must supply (70_reset_and_hazards.md R435): here zeros, log 3. Nothing else is listed.
The registers and flags that the spec leaves undefined, and the platform's parameters, hold the values of log 1, 4, 5. -/
def State.reset : State where
  d := Vector.replicate 8 0
  a := Vector.replicate 7 0
  usp := 0
  ssp := 0
  pc := 0
  sr := 0x2700
  ir := 0
  run := .running
  ipl := 0
  nmiPending := false
  tracePending := false
  window := .reset
  stale := []
  mem := [(0, 0), (1, 0), (2, 0), (3, 0), (4, 0), (5, 0), (6, 0), (7, 0)]
  platform := Platform.plain
  inputs := []
  resetIn := none
  deviceResets := 0
  draws := 0

end Sys2Proof.Machine
end

