-- ==== Sys2Proof/Machine/Ops.lean ====
section
/-! DEFINITION. The named operations over registers and memory, the bus cycle, the fetch of instruction words, the
stack, and taking an exception (60_exceptions.md R370 to R411). -/

namespace Sys2Proof.Machine

/-! Memory as data (20_memory.md R60, R63). -/

/-- The entry of a cell. -/
def Memory.lookup (m : Memory) (k : Nat) : Option Byte :=
  match m with
  | [] => none
  | (k', v) :: rest => if k' = k then some v else Memory.lookup rest k

/-- The byte of a cell; one that nothing has written has a free value of its own, always the same (R87, D29, log 2). -/
def Memory.get (m : Memory) (k : Nat) : Byte := (m.lookup k).getD (Config.unwritten k)

/-- A cell replaced, in canonical form. -/
def Memory.set (m : Memory) (k : Nat) (v : Byte) : Memory :=
  match m with
  | [] => [(k, v)]
  | (k', v') :: rest =>
    if k < k' then (k, v) :: (k', v') :: rest
    else if k = k' then (k, v) :: rest
    else (k', v') :: Memory.set rest k v

/-- The word whose high-order byte is cell k, the low-order byte being the next cell (R63). -/
def Memory.getWord (m : Memory) (k : Nat) : Word := m.get k ++ m.get (k + 1)

/-- A word stored, high-order byte first (R63). -/
def Memory.setWord (m : Memory) (k : Nat) (w : Word) : Memory :=
  (m.set k (w.extractLsb' 8 8)).set (k + 1) (w.extractLsb' 0 8)

/-! Registers (10_state.md R21 to R39). -/

/-- S = 1 (R37). -/
def State.supervisor (s : State) : Bool := s.sr.getLsbD 13

/-- T = 1 (R36). -/
def State.tracing (s : State) : Bool := s.sr.getLsbD 15

/-- I2 to I0 (R38). -/
def State.mask (s : State) : BitVec 3 := s.sr.extractLsb' 8 3

/-- D[n]. -/
def State.dreg (s : State) (n : RegNo) : Long := s.d[n]

/-- D[n] <- v. -/
def State.setDreg (s : State) (n : RegNo) (v : Long) : State := { s with d := s.d.set n v }

/-- A[n]; A[7] is SSP when S = 1 and USP when S = 0 (R26). -/
def State.areg (s : State) (n : RegNo) : Long :=
  if h : n.val < 7 then s.a[n.val] else if s.supervisor then s.ssp else s.usp

/-- A[n] <- v, all 32 bits (R24, R26). -/
def State.setAreg (s : State) (n : RegNo) (v : Long) : State :=
  if h : n.val < 7 then { s with a := s.a.set n.val v }
  else if s.supervisor then { s with ssp := v } else { s with usp := v }

/-- The register number of the stack pointer. -/
def spReg : RegNo := 7

/-- The low part of a register that an operand of the size occupies (R22). -/
def lowPart (sz : Size) (v : Long) : BitVec sz.bits := v.setWidth sz.bits

/-- A register with only its low part replaced (R22). -/
def insertLow : (sz : Size) → Long → BitVec sz.bits → Long
  | .b, old, v => old.extractLsb' 8 24 ++ v
  | .w, old, v => old.extractLsb' 16 16 ++ v
  | .l, _, v => v

/-- `D[n][8·size-1:0] <- v`. -/
def State.setDlow (s : State) (n : RegNo) (sz : Size) (v : BitVec sz.bits) : State :=
  s.setDreg n (insertLow sz (s.dreg n) v)

/-- The sixteen registers in MOVEM's order: D0 to D7, then A0 to A7 (40_data_movement.md R166). -/
def State.rreg (s : State) (i : Fin 16) : Long :=
  if i.val < 8 then s.dreg (Fin.ofNat 8 i.val) else s.areg (Fin.ofNat 8 (i.val - 8))

/-- `R[i] <- v`. -/
def State.setRreg (s : State) (i : Fin 16) (v : Long) : State :=
  if i.val < 8 then s.setDreg (Fin.ofNat 8 i.val) v else s.setAreg (Fin.ofNat 8 (i.val - 8)) v

/-- The condition codes. -/
def State.ccr (s : State) : Ccr := ccrOf s.sr

/-- The condition codes replaced. -/
def State.setCcr (s : State) (f : Ccr) : State := { s with sr := withCcr s.sr f }

/-- `WriteSR(w)` (47_system_control.md R321). -/
def State.writeSr (s : State) (w : Word) : State := { s with sr := w &&& srMask }

/-- `WriteCCR(b)` (47_system_control.md R321). -/
def State.writeCcr (s : State) (w : Word) : State := s.setCcr (ccrOf w)

/-- `pc <- target`: a change of flow discards the prefetched words (46_program_control.md R290, R450). -/
def State.jump (s : State) (t : Long) : State := { s with pc := t, stale := [] }

/-! Computations that may be cut off. -/

/-- The two errors that cut off a bus cycle (60_exceptions.md R376, R377). -/
inductive AccessError where
  | busError
  | addressError
deriving DecidableEq, Repr

/-- The vector number of an access error (60_exceptions.md R366). -/
def AccessError.vector : AccessError → Byte
  | .busError => 2
  | .addressError => 3

/-- A bus cycle: internal address, function code, direction, size and, for a write, the data (10_state.md R43,
20_memory.md R71). -/
structure Cycle where
  addr : Long
  fc : BitVec 3
  read : Bool
  wide : Bool
  data : Word
deriving DecidableEq, Repr

/-- A read cycle of a byte or a word. -/
def Cycle.reading (fc : BitVec 3) (a : Long) (wide : Bool) : Cycle := ⟨a, fc, true, wide, 0⟩

/-- A write cycle of a byte or a word. -/
def Cycle.writing (fc : BitVec 3) (a : Long) (wide : Bool) (v : Word) : Cycle := ⟨a, fc, false, wide, v⟩

/-- Why a computation does not go on. -/
inductive Abort where
  /-- A bus or address error; `inException` is the I/N bit of the frame (60_exceptions.md R384). -/
  | access (e : AccessError) (cyc : Cycle) (inException : Bool)
  /-- External reset (60_exceptions.md R375). -/
  | reset
  /-- A stuck state. -/
  | fault (f : Fault)
  /-- No meaning. -/
  | refuse (r : Refusal)
deriving DecidableEq, Repr

/-- A computation over the state. When it is cut off it keeps the state it had reached, which D31 needs. -/
abbrev M := EStateM Abort State

/-- A view of the state. -/
def look {α : Type} (f : State → α) : M α := fun s => .ok (f s) s

/-- A change of the state. -/
def update (f : State → State) : M Unit := fun s => .ok () (f s)

/-- Cut off. -/
def abort {α : Type} (x : Abort) : M α := fun s => .error x s

/-- A free value, `any()` of 00_scope.md R12: 32 bits that nothing constrains (log 6). -/
def draw : M Long := fun s => .ok (Config.free s.draws) { s with draws := s.draws + 1 }

/-! The bus (20_memory.md R66 to R76). -/

/-- The 24 address bits that reach the bus (R60). -/
def addr24 (a : Long) : Nat := a.toNat % 2 ^ 24

/-- The data space of the current mode (10_state.md R43). -/
def State.dataFc (s : State) : BitVec 3 := if s.supervisor then 5 else 1

/-- The program space of the current mode. -/
def State.progFc (s : State) : BitVec 3 := if s.supervisor then 6 else 2

/-- The platform's region for an address and function code: the first that holds them (R62). -/
def State.region (s : State) (fc : BitVec 3) (a : Long) : Option Region :=
  s.platform.memMap.find? fun r => decide (r.first ≤ addr24 a) && decide (addr24 a ≤ r.last) && r.codes.contains fc

/-- The memory cell behind an address and function code (R62). -/
def State.cell (s : State) (fc : BitVec 3) (a : Long) : Nat :=
  match s.region fc a with
  | none => addr24 a
  | some r => r.bank * 2 ^ 24 + addr24 a

/-- The region's answer, read or write. -/
def State.regionReply (s : State) (fc : BitVec 3) (a : Long) (read : Bool) : Reply :=
  match s.region fc a with
  | none => .data
  | some r => if read then r.onRead else r.onWrite

/-- The entry speaks of cycles at the address, with the function code, direction and size. -/
def Response.covers (r : Response) (fc : BitVec 3) (a : Long) (read wide : Bool) : Bool :=
  decide (r.first ≤ addr24 a) && decide (addr24 a ≤ r.last) && r.codes.contains fc && r.read == read && r.wide == wide

/-- The entry of `bus_response` for a cycle: the first that speaks of it, data included. -/
def State.response (s : State) (cyc : Cycle) : Option Response :=
  s.platform.responses.find? fun r =>
    r.covers cyc.fc cyc.addr cyc.read cyc.wide && decide (cyc.data &&& r.mask = r.value)

/-- `bus_response`, after any retries (R71, R73). -/
def State.answer (s : State) (cyc : Cycle) : Reply :=
  match s.response cyc with
  | none => s.regionReply cyc.fc cyc.addr cyc.read
  | some r => r.reply

/-- The platform asks for a retry of the cycle before it answers (R73). -/
def State.retries (s : State) (cyc : Cycle) : Bool := (s.response cyc).any fun r => r.retry

/-- A bus cycle begins: the reset that comes in this step cuts it off, or is one cycle nearer (60_exceptions.md R362). -/
def countCycle : M Unit := fun s =>
  match s.resetIn with
  | none => .ok () s
  | some 0 => .error .reset s
  | some (n + 1) => .ok () { s with resetIn := some n }

/-- A cycle that nothing answers: only a reset in this step ends it (R71, U21; 70_reset_and_hazards.md R433). -/
def hang {α : Type} : M α := fun s => .error (if s.resetIn.isSome then .reset else .fault .busHang) s

/-- A bus cycle that the platform lets end, and how. -/
def busCycle (cyc : Cycle) : M Reply := do
  countCycle
  let r ← look fun s => s.answer cyc
  match r with
  | .busError => abort (.access .busError cyc false)
  | .silent => hang
  | r => pure r

/-- What a device supplies, which is open (R82, log 20). -/
def fromDevice (n : Nat) : M (BitVec n) := do
  let v ← draw
  return v.setWidth n

/-- What a read cycle obtains: memory's content, or what a device supplies. -/
def supply {n : Nat} (r : Reply) (m : State → BitVec n) : M (BitVec n) :=
  if r = .device then fromDevice n else look m

/-- The alignment rule (R66): the check precedes the bus cycle (R72). -/
def aligned (cyc : Cycle) : M Unit :=
  if cyc.addr.getLsbD 0 then abort (.access .addressError cyc false) else pure ()

/-- A byte read cycle (R67). -/
def readByte (fc : BitVec 3) (addr : Long) : M Byte := do
  let r ← busCycle (.reading fc addr false)
  supply r fun s => s.mem.get (s.cell fc addr)

/-- A word read cycle (R67, R68). -/
def readWord (fc : BitVec 3) (addr : Long) : M Word := do
  aligned (.reading fc addr true)
  let r ← busCycle (.reading fc addr true)
  supply r fun s => s.mem.getWord (s.cell fc addr)

/-- A long word is two word reads, high-order word first (R69, R76). -/
def readLong (fc : BitVec 3) (addr : Long) : M Long := do
  let hi ← readWord fc addr
  let lo ← readWord fc (addr + 2)
  return hi ++ lo

/-- The even address of the word that holds a byte. -/
def evenOf (a : Long) : Long := a &&& 0xFFFFFFFE

/-- The word at the address is one of the two that follow the last word consumed (70_reset_and_hazards.md R450). -/
def State.inPrefetch (s : State) (a : Long) : Bool := decide (addr24 (evenOf a - s.pc) < 4)

/-- Before a store: a word of the prefetch window may have been read already, so its old value is kept beside memory
(D3, log 10). -/
def noteStale (fc : BitVec 3) (addr : Long) : M Unit := update fun s =>
  if s.inPrefetch addr then
    let k := s.cell fc (evenOf addr)
    { s with stale := (k, s.mem.getWord k) :: s.stale }
  else s

/-- A byte write cycle (R67). Read-only memory answers and ignores it, a device takes it (R82). -/
def writeByte (fc : BitVec 3) (addr : Long) (v : Byte) : M Unit := do
  let r ← busCycle (.writing fc addr false (v.setWidth 16))
  if r = .data then
    noteStale fc addr
    update fun s => { s with mem := s.mem.set (s.cell fc addr) v }

/-- A word write cycle (R67, R68). -/
def writeWord (fc : BitVec 3) (addr : Long) (v : Word) : M Unit := do
  aligned (.writing fc addr true v)
  let r ← busCycle (.writing fc addr true v)
  if r = .data then
    noteStale fc addr
    update fun s => { s with mem := s.mem.setWord (s.cell fc addr) v }

/-- A long word is two word writes, high-order word first (R69, R76). -/
def writeLong (fc : BitVec 3) (addr : Long) (v : Long) : M Unit := do
  writeWord fc addr (v.extractLsb' 16 16)
  writeWord fc (addr + 2) (v.extractLsb' 0 16)

/-- `MemRead(addr, size)` with a given function code (R67). -/
def readSized (fc : BitVec 3) (addr : Long) : (sz : Size) → M (BitVec sz.bits)
  | .b => readByte fc addr
  | .w => readWord fc addr
  | .l => readLong fc addr

/-- `MemWrite(addr, size, v)` with a given function code (R67). -/
def writeSized (fc : BitVec 3) (addr : Long) : (sz : Size) → BitVec sz.bits → M Unit
  | .b, v => writeByte fc addr v
  | .w, v => writeWord fc addr v
  | .l, v => writeLong fc addr v

/-- `MemRead(addr, size)` in the data space of the current mode. -/
def memRead (sz : Size) (addr : Long) : M (BitVec sz.bits) := do
  let fc ← look State.dataFc
  readSized fc addr sz

/-- `MemWrite(addr, size, v)` in the data space of the current mode. -/
def memWrite (sz : Size) (addr : Long) (v : BitVec sz.bits) : M Unit := do
  let fc ← look State.dataFc
  writeSized fc addr sz v

/-! Fetching instruction words (20_memory.md R81, 70_reset_and_hazards.md R450, R451). -/

/-- The words that the prefetch queue may still hold for a cell. -/
def State.staleAt (s : State) (k : Nat) : List Word := (s.stale.filter fun e => e.1 == k).map Prod.snd

/-- The word that the fetch of a cell obtains: memory's, or, where a store has hit the prefetch window since the last
change of flow, a free choice of the old words and the new one (D3). -/
def fetchCell (k : Nat) : M Word := fun s =>
  match s.staleAt k with
  | [] => .ok (s.mem.getWord k) s
  | old =>
    let i := (Config.free s.draws).toNat % (old.length + 1)
    .ok (old.getD i (s.mem.getWord k)) { s with draws := s.draws + 1, stale := s.stale.filter fun e => e.1 != k }

/-- The word that a fetch obtains from the answer to its cycle. -/
def fetchAnswered (r : Reply) (k : Nat) : M Word := if r = .device then fromDevice 16 else fetchCell k

/-- `Fetch16()` (20_memory.md R81). -/
def fetch16 : M Word := do
  let fc ← look State.progFc
  let pc ← look fun s => s.pc
  aligned (.reading fc pc true)
  let r ← busCycle (.reading fc pc true)
  let k ← look fun s => s.cell fc pc
  let w ← fetchAnswered r k
  update fun s => { s with pc := s.pc + 2 }
  return w

/-- Two extension words, high-order word first (30_encoding.md R106). -/
def fetch32 : M Long := do
  let hi ← fetch16
  let lo ← fetch16
  return hi ++ lo

/-! The stack (00_scope.md R12, 10_state.md R27). -/

/-- `Push16(v)`. -/
def push16 (v : Word) : M Unit := do
  update fun s => s.setAreg spReg (s.areg spReg - 2)
  let sp ← look fun s => s.areg spReg
  memWrite .w sp v

/-- `Push32(v)`. -/
def push32 (v : Long) : M Unit := do
  update fun s => s.setAreg spReg (s.areg spReg - 4)
  let sp ← look fun s => s.areg spReg
  memWrite .l sp v

/-- `Pop16()`. -/
def pop16 : M Word := do
  let sp ← look fun s => s.areg spReg
  let v ← memRead .w sp
  update fun s => s.setAreg spReg (s.areg spReg + 2)
  return v

/-- `Pop32()`. -/
def pop32 : M Long := do
  let sp ← look fun s => s.areg spReg
  let v ← memRead .l sp
  update fun s => s.setAreg spReg (s.areg spReg + 4)
  return v

/-! Taking an exception (60_exceptions.md R370). -/

/-- SR after step 1 of the entry: S set, T clear, the mask raised to the level of an interrupt or reset. -/
def entrySr (sr : Word) (level : Option (BitVec 3)) : Word :=
  let sr1 := (sr ||| 0x2000) &&& 0x7FFF
  match level with
  | none => sr1
  | some l => (sr1 &&& 0xF8FF) ||| (l.setWidth 16 <<< 8)

/-- A bus or address error in the course of exception processing has I/N = 1 (R384, R411). -/
def inException {α : Type} (m : M α) : M α := fun s =>
  match m s with
  | .ok a s' => .ok a s'
  | .error (.access e cyc _) s' => .error (.access e cyc true) s'
  | .error x s' => .error x s'

/-- The address of vector n (R365). -/
def vectorAddr (n : Byte) : Long := n.setWidth 32 <<< 2

/-- Step 4 of the entry: the handler's address from the vector table, and the change of flow (R367). -/
def enterHandler (n : Byte) : M Unit := do
  let t ← memRead .l (vectorAddr n)
  update fun s => s.jump t

/-- `ExceptionEntry` with the short frame (R370, R371): the saved PC, then the saved SR, on the supervisor stack. -/
def enterException (n : Byte) (savedPc : Long) (level : Option (BitVec 3)) : M Unit := inException do
  let saved ← look fun s => s.sr
  update fun s => { s with sr := entrySr s.sr level, run := .running }
  push32 savedPc
  push16 saved
  enterHandler n

/-- A group-2 exception: the saved PC is that of the next instruction (R372, D13). -/
def raiseTrap (n : Byte) : M Unit := do
  let next ← look fun s => s.pc
  enterException n next none

/-- A group-1 exception of an instruction that is not executed: the saved PC is that of its operation word, which has
been fetched (R372); such an instruction is not traced (R393). -/
def raiseUnexecuted (n : Byte) : M Unit := do
  update fun s => { s with tracePending := false }
  let next ← look fun s => s.pc
  enterException n (next - 2) none

/-- The privilege check: it comes first, and in user mode raises the privilege violation (R420, R421). -/
def privileged (m : M Unit) : M Unit := do
  let sup ← look State.supervisor
  if sup then m else raiseUnexecuted 8

/-! An instruction cut off by a bus or address error (60_exceptions.md R373, R384, R410, D31). -/

/-- A free choice, by bit i of the n-th draw, of an old and a new value. -/
def blendValue {α : Type} [DecidableEq α] (n i : Nat) (old new : α) : α :=
  if old = new then new else if (Config.free n).getLsbD i then old else new

/-- The condition codes, each a free choice of old and new. -/
def blendCcr (n : Nat) (old new : Ccr) : Ccr :=
  { x := blendValue n 17 old.x new.x
    n := blendValue n 18 old.n new.n
    z := blendValue n 19 old.z new.z
    v := blendValue n 20 old.v new.v
    c := blendValue n 21 old.c new.c }

/-- A cell that has been written holds its old byte or its new one. -/
def blendCell (n : Nat) (old m : Memory) (k : Nat) : Memory :=
  if m.lookup k = old.lookup k then m else m.set k (if Config.keepsOld n k then old.get k else m.get k)

/-- Memory after a cut-off instruction: each cell holds its old value or its new one (U19). No operation takes a cell out
of memory, so the cells of `new` are all there are. -/
def blendMem (n : Nat) (old new : Memory) : Memory :=
  (new.map Prod.fst).foldl (fun m k => blendCell n old m k) new

/-- The state of a cut-off instruction: each register and memory cell it has changed holds its old or its new value
(R373, D31, log 7). -/
def blend (old new : State) : State :=
  { new with
    d := Vector.ofFn fun i => blendValue new.draws i.val old.d[i] new.d[i]
    a := Vector.ofFn fun i => blendValue new.draws (8 + i.val) old.a[i] new.a[i]
    usp := blendValue new.draws 15 old.usp new.usp
    ssp := blendValue new.draws 16 old.ssp new.ssp
    sr := withCcr new.sr (blendCcr new.draws (ccrOf old.sr) (ccrOf new.sr))
    mem := blendMem new.draws old.mem new.mem
    draws := new.draws + 1 }

/-- What the frame of R384 says of the instruction in progress. -/
inductive Progress where
  /-- It began at this address and its operation word is in IR. -/
  | instruction (ia : Long)
  /-- The fetch of an operation word at this address failed: IR is not stated (10_state.md R45). -/
  | fetching (ia : Long)
  /-- No instruction was in progress (trace and interrupt processing). -/
  | boundary
deriving DecidableEq, Repr

/-- An even value from ia + 2 to ia + 10, chosen by a free value (R384, D12). -/
def pcNear (ia : Long) (free : Long) : Long :=
  evenOf (ia + 3) + 2 * BitVec.ofNat 32 (free.toNat % (if ia.getLsbD 0 then 4 else 5))

/-- The PC word of the group-0 frame (D12, log 8). -/
def framePc (p : Progress) (free : Long) : Long :=
  match p with
  | .instruction ia => pcNear ia free
  | .fetching ia => pcNear ia free
  | .boundary => evenOf free

/-- The instruction word of the group-0 frame: the operation word in progress, or a free value (D12, log 8). -/
def frameIr (p : Progress) (inExc : Bool) (ir : Word) (free : Long) : Word :=
  match p with
  | .instruction _ => if inExc then free.setWidth 16 else ir
  | .fetching _ => free.setWidth 16
  | .boundary => free.setWidth 16

/-- The access-type word: FC in bits 2 to 0, I/N in bit 3, R/W in bit 4, the rest free (R384, D14). -/
def accessWord (cyc : Cycle) (inExc : Bool) (free : Long) : Word :=
  free.extractLsb' 0 11 ++ (BitVec.ofBool cyc.read ++ (BitVec.ofBool inExc ++ cyc.fc))

/-- The group-0 entry: the seven-word frame of R384 and vector 2 or 3. -/
def enterAccessError (e : AccessError) (cyc : Cycle) (inExc : Bool) (p : Progress) : M Unit := inException do
  let saved ← look fun s => s.sr
  let ir ← look fun s => s.ir
  update fun s => { s with sr := entrySr s.sr none, run := .running, tracePending := false, window := .error }
  let f1 ← draw
  let f2 ← draw
  let f3 ← draw
  push32 (framePc p f1)
  push16 saved
  push16 (frameIr p inExc ir f2)
  push32 cyc.addr
  push16 (accessWord cyc inExc f3)
  enterHandler e.vector

/-- A double bus fault: the machine halts; which words of the failing frame were written is not defined (R410, C24). -/
def haltFrom (old new : State) : State :=
  { new with mem := blendMem new.draws old.mem new.mem, draws := new.draws + 1, run := .halted, tracePending := false }

/-- What an external reset finds of a piece of processing that it cuts off: nothing is saved, a cell that has been written
is a free choice of old and new, and the reset sequence is due (60_exceptions.md R362, R375; 70_reset_and_hazards.md
R430; log 5). -/
def abandonedFrom (old new : State) : State :=
  { new with mem := blendMem new.draws old.mem new.mem, draws := new.draws + 1, resetIn := some 0 }

/-- Group-0 processing of a bus or address error that cut off `now`, begun in `base`; an error inside it is a double
bus fault (R373, R384, R410). -/
def accessErrorTaken (base now : State) (e : AccessError) (cyc : Cycle) (inExc : Bool) (p : Progress) :
    Host.Outcome State Fault Refusal :=
  let b := blend base now
  match enterAccessError e cyc inExc p b with
  | .ok _ s => .next s
  | .error (.access _ _ _) s => .next (haltFrom b s)
  | .error .reset s => .next (abandonedFrom b s)
  | .error (.fault f) _ => .fault f
  | .error (.refuse r) _ => .refused r

/-- The end of an instruction whose operation word has been fetched: its next state, or the exception that cut it off.
`base` is the state that a cut-off part may leave (D31). -/
def finish (base : State) (r : EStateM.Result Abort State Unit) : Host.Outcome State Fault Refusal :=
  match r with
  | .ok _ s => .next s
  | .error (.access e cyc inExc) s => accessErrorTaken base s e cyc inExc (.instruction (base.pc - 2))
  | .error .reset s => .next (abandonedFrom base s)
  | .error (.fault f) _ => .fault f
  | .error (.refuse x) _ => .refused x

/-- An instruction, run in the state that its operation word's fetch has left: PC is its address + 2 (10_state.md
R28). -/
def execute (m : M Unit) (s : State) : Host.Outcome State Fault Refusal := finish s (m s)

end Sys2Proof.Machine
end

