-- ==== Sys2Proof/Machine/Operands.lean ====
section
/-! DEFINITION. Operand access through an effective-address field (30_encoding.md R106 to R128), and the shared shapes of
the instructions: an operand read and written back, the pair forms, a shift, a decimal result. -/

namespace Sys2Proof.Machine

/-- `step(size, reg)`: the A7 byte step is 2 (30_encoding.md R125, R127). -/
def stepOf (sz : Size) (n : RegNo) : Long :=
  match sz with
  | .b => if n = spReg then 2 else 1
  | .w => 2
  | .l => 4

/-- `Index(ew)` (R116). -/
def State.indexValue (s : State) (e : BriefExt) : Long :=
  let x := if e.isAddr then s.areg e.reg else s.dreg e.reg
  if e.isLong then x else (x.setWidth 16).signExtend 32

/-- The displacement and index of a brief extension word, fetched (R116). -/
def fetchIndex : M Long := do
  let w ← fetch16
  look fun s => (BriefExt.decode w).disp.signExtend 32 + s.indexValue (BriefExt.decode w)

/-- `EAaddr(mode, reg, size)` (R125): the address of a memory operand, with the side effects on address registers. -/
def eaAddr (sz : Size) : Ea → M Long
  | .ind n => look fun s => s.areg n
  | .post n => do
    let a ← look fun s => s.areg n
    update fun s => s.setAreg n (a + stepOf sz n)
    return a
  | .pre n => do
    update fun s => s.setAreg n (s.areg n - stepOf sz n)
    look fun s => s.areg n
  | .disp n => do
    let d ← fetch16
    look fun s => s.areg n + d.signExtend 32
  | .index n => do
    let i ← fetchIndex
    look fun s => s.areg n + i
  | .absW => do
    let w ← fetch16
    return w.signExtend 32
  | .absL => fetch32
  | .pcDisp => do
    let base ← look fun s => s.pc
    let d ← fetch16
    return base + d.signExtend 32
  | .pcIndex => do
    let base ← look fun s => s.pc
    let i ← fetchIndex
    return base + i
  | .dn _ | .an _ | .imm => abort (.refuse .notAnOperand)

/-- The function code of an operand read: the PC-relative modes read program space (R118, 20_memory.md R80), as far as the
platform's parameter says so, since the sources do not (G15, log 23). -/
def State.operandFc (s : State) : Ea → BitVec 3
  | .pcDisp | .pcIndex => if s.platform.pcRelProgram then s.progFc else s.dataFc
  | _ => s.dataFc

/-- An immediate of the size: one word for byte (low byte used, D32) and word, two for long (R106). -/
def fetchImm : (sz : Size) → M (BitVec sz.bits)
  | .b => do
    let w ← fetch16
    return w.setWidth 8
  | .w => fetch16
  | .l => fetch32

/-- A memory operand read (R125). -/
def readMemEa (sz : Size) (ea : Ea) : M (BitVec sz.bits) := do
  let a ← eaAddr sz ea
  let fc ← look fun s => s.operandFc ea
  readSized fc a sz

/-- `ReadEA(mode, reg, size)` (R125). -/
def readEa (sz : Size) (ea : Ea) : M (BitVec sz.bits) :=
  match ea with
  | .dn n => look fun s => lowPart sz (s.dreg n)
  | .an n => if sz = .b then abort (.refuse .notAnOperand) else look fun s => lowPart sz (s.areg n)
  | .imm => fetchImm sz
  | ea => readMemEa sz ea

/-- `WriteEA(mode, reg, size, value)` (R125). -/
def writeEa (sz : Size) (ea : Ea) (v : BitVec sz.bits) : M Unit :=
  match ea with
  | .dn n => update fun s => s.setDlow n sz v
  | .an n => update fun s => s.setAreg n (extendOperand sz v)
  | .pcDisp | .pcIndex | .imm => abort (.refuse .notAnOperand)
  | ea => do
    let a ← eaAddr sz ea
    memWrite sz a v

/-- A read-modify-write operand (R128): the address is evaluated once, the flags that `f` sets are set before the write
(log 14). -/
def modifyEa (sz : Size) (ea : Ea) (f : BitVec sz.bits → M (BitVec sz.bits)) : M Unit :=
  match ea with
  | .dn n => do
    let v ← look fun s => lowPart sz (s.dreg n)
    let r ← f v
    update fun s => s.setDlow n sz r
  | .an _ | .pcDisp | .pcIndex | .imm => abort (.refuse .notAnOperand)
  | ea => do
    let a ← eaAddr sz ea
    let v ← memRead sz a
    let r ← f v
    memWrite sz a r

/-! Results with their flags. -/

/-- The condition codes replaced by a function of the old ones. -/
def setFlags (f : Ccr → Ccr) : M Unit := update fun s => s.setCcr (f s.ccr)

/-- d + s, all five flags (R191). -/
def addResult {n : Nat} (d s : BitVec n) : M (BitVec n) := do
  setFlags fun _ => arithFlags (aluAdd d s false)
  return (aluAdd d s false).r

/-- d − s, all five flags (R197). -/
def subResult {n : Nat} (d s : BitVec n) : M (BitVec n) := do
  setFlags fun _ => arithFlags (aluSub d s false)
  return (aluSub d s false).r

/-- d + s + X, Z only cleared (R195, R196). -/
def addxResult {n : Nat} (d s : BitVec n) : M (BitVec n) := do
  let x ← look fun st => st.ccr.x
  setFlags fun f => stickyFlags f (aluAdd d s x)
  return (aluAdd d s x).r

/-- d − s − X, Z only cleared (R201, R196). -/
def subxResult {n : Nat} (d s : BitVec n) : M (BitVec n) := do
  let x ← look fun st => st.ccr.x
  setFlags fun f => stickyFlags f (aluSub d s x)
  return (aluSub d s x).r

/-- The flags of d − s, nothing kept (R205). -/
def compareResult {n : Nat} (d s : BitVec n) : M Unit := setFlags fun f => compareFlags f (aluSub d s false)

/-- A value with the flags of a move or a logical operation (R160, R230). -/
def logicResult {n : Nat} (r : BitVec n) : M (BitVec n) := do
  setFlags fun f => moveFlags f r
  return r

/-- A shift by a count, with its flags (43_shift_rotate.md R254). -/
def shiftResult {n : Nat} (op : ShiftOp) (count : Nat) (v : BitVec n) : M (BitVec n) := do
  let x ← look fun s => s.ccr.x
  setFlags fun _ => shiftFlags (shiftRun op count v x)
  return (shiftRun op count v x).val

/-- A decimal result with its flags: N and V are free, and for invalid digits so are the result, X, Z and C
(45_bcd.md R280, R282, R283, D8; log 15). -/
def decimalResult (valid : Bool) (o : Byte × Bool) : M Byte := do
  let free ← draw
  if valid then
    setFlags fun f => { x := o.2, n := free.getLsbD 8, z := f.z && decide (o.1 = 0), v := free.getLsbD 9, c := o.2 }
    return o.1
  else
    setFlags fun _ => { x := free.getLsbD 10, n := free.getLsbD 8, z := free.getLsbD 11, v := free.getLsbD 9, c := free.getLsbD 12 }
    return free.setWidth 8

/-! Shapes shared by several instructions. -/

/-- `<ea> op Dn -> Dn` (30_encoding.md R132). -/
def eaToDn (sz : Size) (dn : RegNo) (ea : Ea) (f : BitVec sz.bits → BitVec sz.bits → M (BitVec sz.bits)) : M Unit := do
  let v ← readEa sz ea
  let d ← look fun s => lowPart sz (s.dreg dn)
  let r ← f d v
  update fun s => s.setDlow dn sz r

/-- `Dn op <ea> -> <ea>` (30_encoding.md R132): f takes the destination and the source. -/
def dnToEa (sz : Size) (dn : RegNo) (ea : Ea) (f : BitVec sz.bits → BitVec sz.bits → M (BitVec sz.bits)) : M Unit :=
  modifyEa sz ea fun d => do
    let v ← look fun s => lowPart sz (s.dreg dn)
    f d v

/-- `#imm op <ea> -> <ea>`: the immediate, then the operand (30_encoding.md R102). -/
def immToEa (sz : Size) (ea : Ea) (f : BitVec sz.bits → BitVec sz.bits → M (BitVec sz.bits)) : M Unit := do
  let v ← fetchImm sz
  modifyEa sz ea fun d => f d v

/-- The pair forms `Dy,Dx` and `-(Ay),-(Ax)` (30_encoding.md R133): source first (R195). -/
def pairOp (sz : Size) (m : PairMode) (x y : RegNo) (f : BitVec sz.bits → BitVec sz.bits → M (BitVec sz.bits)) : M Unit :=
  match m with
  | .regs => do
    let v ← look fun s => lowPart sz (s.dreg y)
    let d ← look fun s => lowPart sz (s.dreg x)
    let r ← f d v
    update fun s => s.setDlow x sz r
  | .mem => do
    let ay ← eaAddr sz (.pre y)
    let v ← memRead sz ay
    let ax ← eaAddr sz (.pre x)
    let d ← memRead sz ax
    let r ← f d v
    memWrite sz ax r

/-- A quick value: 0 stands for 8 (30_encoding.md R131). -/
def quick (q : RegNo) : Nat := if q.val = 0 then 8 else q.val

/-- The count of a register shift, a register's taken modulo 64 (43_shift_rotate.md R253). -/
def State.shiftCount (s : State) : ShiftCount → Nat
  | .quick q => quick q
  | .reg n => (s.dreg n).toNat % 64

/-- The register form of a shift (43_shift_rotate.md R251, R254). -/
def shiftReg (op : ShiftOp) (sz : Size) (cnt : ShiftCount) (dn : RegNo) : M Unit := do
  let k ← look fun s => s.shiftCount cnt
  let v ← look fun s => lowPart sz (s.dreg dn)
  let r ← shiftResult op k v
  update fun s => s.setDlow dn sz r

/-- The memory form of a shift: a word, one bit (43_shift_rotate.md R252). -/
def shiftMem (op : ShiftOp) (ea : Ea) : M Unit := modifyEa .w ea fun v => shiftResult op 1 v

/-- What a bit instruction writes back (44_bit_manipulation.md R274 to R277). -/
inductive BitOp where
  | tst
  | chg
  | clr
  | set
deriving DecidableEq, Repr

/-- The operand with bit k treated. -/
def BitOp.apply {n : Nat} (op : BitOp) (v : BitVec n) (k : Nat) : BitVec n :=
  match op with
  | .tst => v
  | .chg => v ^^^ BitVec.twoPow n k
  | .clr => v &&& ~~~(BitVec.twoPow n k)
  | .set => v ||| BitVec.twoPow n k

/-- Z <- NOT bit(v,k), the other flags unchanged (44_bit_manipulation.md R271), and the new operand. -/
def bitResult {n : Nat} (op : BitOp) (v : BitVec n) (k : Nat) : M (BitVec n) := do
  setFlags fun f => { f with z := !v.getLsbD k }
  return op.apply v k

/-- A modifying bit instruction: 32 bits of a register, or a byte of memory; the bit number modulo 32 or 8
(44_bit_manipulation.md R270). -/
def bitModify (op : BitOp) (number : Nat) (ea : Ea) : M Unit :=
  match ea with
  | .dn n => modifyEa .l (.dn n) fun v => bitResult op v (number % 32)
  | ea => modifyEa .b ea fun v => bitResult op v (number % 8)

/-- BTST: the operand is read only (44_bit_manipulation.md R274). -/
def bitTest (number : Nat) (ea : Ea) : M Unit :=
  match ea with
  | .dn n => do
    let v ← readEa .l (.dn n)
    let _ ← bitResult .tst v (number % 32)
  | ea => do
    let v ← readEa .b ea
    let _ ← bitResult .tst v (number % 8)

end Sys2Proof.Machine
end

