-- ==== Sys2Proof/Machine/Arith.lean ====
section
/-! DEFINITION. The integer arithmetic instructions (41_integer_arithmetic.md). -/

namespace Sys2Proof.Machine

/-- ADD `<ea>,Dn` (R191). -/
def execAddToDn (sz : Size) (dn : RegNo) (ea : Ea) (s : State) : Host.Outcome State Fault Refusal :=
  execute (eaToDn sz dn ea addResult) s

/-- ADD `Dn,<ea>` (R191). -/
def execAddToEa (sz : Size) (dn : RegNo) (ea : Ea) (s : State) : Host.Outcome State Fault Refusal :=
  execute (dnToEa sz dn ea addResult) s

/-- ADDA (R192): 32 bits, no flag changes. -/
def execAdda (sz : Size) (an : RegNo) (ea : Ea) (s : State) : Host.Outcome State Fault Refusal :=
  execute (do
    let v ← readEa sz ea
    update fun s => s.setAreg an (s.areg an + extendOperand sz v)) s

/-- ADDI (R193). -/
def execAddi (sz : Size) (ea : Ea) (s : State) : Host.Outcome State Fault Refusal :=
  execute (immToEa sz ea addResult) s

/-- ADDQ (R194): an address register takes the full 32 bits and changes no flag. -/
def execAddq (sz : Size) (q : RegNo) (ea : Ea) (s : State) : Host.Outcome State Fault Refusal :=
  execute (match ea with
    | .an n => if sz = .b then abort (.refuse .notAnOperand)
               else update fun s => s.setAreg n (s.areg n + BitVec.ofNat 32 (quick q))
    | ea => modifyEa sz ea fun d => addResult d (BitVec.ofNat sz.bits (quick q))) s

/-- ADDX (R195, R196). -/
def execAddx (sz : Size) (m : PairMode) (x y : RegNo) (s : State) : Host.Outcome State Fault Refusal :=
  execute (pairOp sz m x y addxResult) s

/-- SUB `<ea>,Dn` (R197). -/
def execSubToDn (sz : Size) (dn : RegNo) (ea : Ea) (s : State) : Host.Outcome State Fault Refusal :=
  execute (eaToDn sz dn ea subResult) s

/-- SUB `Dn,<ea>` (R197). -/
def execSubToEa (sz : Size) (dn : RegNo) (ea : Ea) (s : State) : Host.Outcome State Fault Refusal :=
  execute (dnToEa sz dn ea subResult) s

/-- SUBA (R198): 32 bits, no flag changes. -/
def execSuba (sz : Size) (an : RegNo) (ea : Ea) (s : State) : Host.Outcome State Fault Refusal :=
  execute (do
    let v ← readEa sz ea
    update fun s => s.setAreg an (s.areg an - extendOperand sz v)) s

/-- SUBI (R199). -/
def execSubi (sz : Size) (ea : Ea) (s : State) : Host.Outcome State Fault Refusal :=
  execute (immToEa sz ea subResult) s

/-- SUBQ (R200). -/
def execSubq (sz : Size) (q : RegNo) (ea : Ea) (s : State) : Host.Outcome State Fault Refusal :=
  execute (match ea with
    | .an n => if sz = .b then abort (.refuse .notAnOperand)
               else update fun s => s.setAreg n (s.areg n - BitVec.ofNat 32 (quick q))
    | ea => modifyEa sz ea fun d => subResult d (BitVec.ofNat sz.bits (quick q))) s

/-- SUBX (R201, R196). -/
def execSubx (sz : Size) (m : PairMode) (x y : RegNo) (s : State) : Host.Outcome State Fault Refusal :=
  execute (pairOp sz m x y subxResult) s

/-- NEG (R202). -/
def execNeg (sz : Size) (ea : Ea) (s : State) : Host.Outcome State Fault Refusal :=
  execute (modifyEa sz ea fun d => subResult 0 d) s

/-- NEGX (R203, R196). -/
def execNegx (sz : Size) (ea : Ea) (s : State) : Host.Outcome State Fault Refusal :=
  execute (modifyEa sz ea fun d => subxResult 0 d) s

/-- CLR (R204): the operand is written and not read. -/
def execClr (sz : Size) (ea : Ea) (s : State) : Host.Outcome State Fault Refusal :=
  execute (do
    setFlags fun f => { x := f.x, n := false, z := true, v := false, c := false }
    writeEa sz ea 0) s

/-- CMP (R205). -/
def execCmp (sz : Size) (dn : RegNo) (ea : Ea) (s : State) : Host.Outcome State Fault Refusal :=
  execute (do
    let v ← readEa sz ea
    let d ← look fun s => lowPart sz (s.dreg dn)
    compareResult d v) s

/-- CMPA (R206): on all 32 bits. -/
def execCmpa (sz : Size) (an : RegNo) (ea : Ea) (s : State) : Host.Outcome State Fault Refusal :=
  execute (do
    let v ← readEa sz ea
    let d ← look fun s => s.areg an
    compareResult d (extendOperand sz v)) s

/-- CMPI (R207). -/
def execCmpi (sz : Size) (ea : Ea) (s : State) : Host.Outcome State Fault Refusal :=
  execute (do
    let v ← fetchImm sz
    let d ← readEa sz ea
    compareResult d v) s

/-- CMPM (R208): `(Ay)+` is read first. -/
def execCmpm (sz : Size) (x y : RegNo) (s : State) : Host.Outcome State Fault Refusal :=
  execute (do
    let v ← readMemEa sz (.post y)
    let d ← readMemEa sz (.post x)
    compareResult d v) s

/-- EXT (R209): byte to word, or word to long. -/
def execExt (sz : Size) (dn : RegNo) (s : State) : Host.Outcome State Fault Refusal :=
  execute (match sz with
    | .b => abort (.refuse .notAnOperand)
    | .w => do
      let v : Word ← look fun s => ((s.dreg dn).setWidth 8).signExtend 16
      setFlags fun f => moveFlags f v
      update fun s => s.setDlow dn .w v
    | .l => do
      let v : Long ← look fun s => ((s.dreg dn).setWidth 16).signExtend 32
      setFlags fun f => moveFlags f v
      update fun s => s.setDreg dn v) s

/-- MULU (R210). -/
def execMulu (dn : RegNo) (ea : Ea) (s : State) : Host.Outcome State Fault Refusal :=
  execute (do
    let v ← readEa .w ea
    let d ← look fun s => lowPart .w (s.dreg dn)
    let r ← logicResult (mulUnsigned d v)
    update fun s => s.setDreg dn r) s

/-- MULS (R211). -/
def execMuls (dn : RegNo) (ea : Ea) (s : State) : Host.Outcome State Fault Refusal :=
  execute (do
    let v ← readEa .w ea
    let d ← look fun s => lowPart .w (s.dreg dn)
    let r ← logicResult (mulSigned d v)
    update fun s => s.setDreg dn r) s

/-- The flags of a division by zero: C clear, X kept, N, Z and V free (R212, D6). -/
def divZeroFlags (free : Long) (f : Ccr) : Ccr :=
  { x := f.x, n := free.getLsbD 0, z := free.getLsbD 1, v := free.getLsbD 2, c := false }

/-- The flags of a quotient that does not fit: V set, C clear, X kept, N and Z free (R215, D6). -/
def divOverflowFlags (free : Long) (f : Ccr) : Ccr :=
  { x := f.x, n := free.getLsbD 0, z := free.getLsbD 1, v := true, c := false }

/-- A division: the zero divisor traps through vector 5 (R212), an overflow leaves the register (R215), else the
quotient goes to the low word and the remainder to the high word, with the flags of the quotient (R213, R214). -/
def divide (dn : RegNo) (ea : Ea) (quotient : Long → Word → Option (Word × Word)) : M Unit := do
  let v ← readEa .w ea
  if v = 0 then
    let free ← draw
    setFlags (divZeroFlags free)
    raiseTrap 5
  else
    let d ← look fun s => s.dreg dn
    match quotient d v with
    | none =>
      let free ← draw
      setFlags (divOverflowFlags free)
    | some (q, r) =>
      setFlags fun f => moveFlags f q
      update fun s => s.setDreg dn (r ++ q)

/-- DIVU (R212, R213, R215). -/
def execDivu (dn : RegNo) (ea : Ea) (s : State) : Host.Outcome State Fault Refusal :=
  execute (divide dn ea divUnsigned) s

/-- DIVS (R212, R214, R215). -/
def execDivs (dn : RegNo) (ea : Ea) (s : State) : Host.Outcome State Fault Refusal :=
  execute (divide dn ea divSigned) s

end Sys2Proof.Machine
end

