-- ==== Sys2Proof/Machine/Bits.lean ====
section
/-! DEFINITION. The bit instructions (44_bit_manipulation.md) and the decimal instructions (45_bcd.md). -/

namespace Sys2Proof.Machine

/-- The bit number of a static form: the low byte of its extension word (R273, D32). -/
def fetchBitNumber : M Nat := do
  let w ← fetch16
  return w.toNat % 256

/-- BTST with an immediate bit number (R274). -/
def execBtstImm (ea : Ea) (s : State) : Host.Outcome State Fault Refusal :=
  execute (do
    let k ← fetchBitNumber
    bitTest k ea) s

/-- BTST with the bit number in a data register (R274, R272). -/
def execBtstReg (n : RegNo) (ea : Ea) (s : State) : Host.Outcome State Fault Refusal :=
  execute (do
    let k ← look fun s => (s.dreg n).toNat
    bitTest k ea) s

/-- BCHG with an immediate bit number (R275). -/
def execBchgImm (ea : Ea) (s : State) : Host.Outcome State Fault Refusal :=
  execute (do
    let k ← fetchBitNumber
    bitModify .chg k ea) s

/-- BCHG with the bit number in a data register (R275, R272). -/
def execBchgReg (n : RegNo) (ea : Ea) (s : State) : Host.Outcome State Fault Refusal :=
  execute (do
    let k ← look fun s => (s.dreg n).toNat
    bitModify .chg k ea) s

/-- BCLR with an immediate bit number (R276). -/
def execBclrImm (ea : Ea) (s : State) : Host.Outcome State Fault Refusal :=
  execute (do
    let k ← fetchBitNumber
    bitModify .clr k ea) s

/-- BCLR with the bit number in a data register (R276, R272). -/
def execBclrReg (n : RegNo) (ea : Ea) (s : State) : Host.Outcome State Fault Refusal :=
  execute (do
    let k ← look fun s => (s.dreg n).toNat
    bitModify .clr k ea) s

/-- BSET with an immediate bit number (R277). -/
def execBsetImm (ea : Ea) (s : State) : Host.Outcome State Fault Refusal :=
  execute (do
    let k ← fetchBitNumber
    bitModify .set k ea) s

/-- BSET with the bit number in a data register (R277, R272). -/
def execBsetReg (n : RegNo) (ea : Ea) (s : State) : Host.Outcome State Fault Refusal :=
  execute (do
    let k ← look fun s => (s.dreg n).toNat
    bitModify .set k ea) s

/-- The decimal sum of two bytes with X (R283). -/
def decimalAdd (d v : Byte) : M Byte := do
  let x ← look fun s => s.ccr.x
  decimalResult (isBcd d && isBcd v) (bcdAdd d v x)

/-- The decimal difference of two bytes with X (R283). -/
def decimalSub (d v : Byte) : M Byte := do
  let x ← look fun s => s.ccr.x
  decimalResult (isBcd d && isBcd v) (bcdSub d v x)

/-- ABCD (R284). -/
def execAbcd (m : PairMode) (x y : RegNo) (s : State) : Host.Outcome State Fault Refusal :=
  execute (pairOp .b m x y decimalAdd) s

/-- SBCD (R285). -/
def execSbcd (m : PairMode) (x y : RegNo) (s : State) : Host.Outcome State Fault Refusal :=
  execute (pairOp .b m x y decimalSub) s

/-- NBCD (R286). -/
def execNbcd (ea : Ea) (s : State) : Host.Outcome State Fault Refusal :=
  execute (modifyEa .b ea fun d => decimalSub 0 d) s

end Sys2Proof.Machine
end

