-- ==== Sys2Proof/Machine/Control.lean ====
section
/-! DEFINITION. The program control instructions (46_program_control.md). -/

namespace Sys2Proof.Machine

/-- `BranchTarget()` (R291): called with PC = ia + 2; a zero field announces a displacement word. -/
def branchTarget (disp : Byte) : M Long := do
  let base ← look fun s => s.pc
  if disp = 0 then
    let d ← fetch16
    return base + d.signExtend 32
  else return base + disp.signExtend 32

/-- BRA (R292). -/
def execBra (disp : Byte) (s : State) : Host.Outcome State Fault Refusal :=
  execute (do
    let t ← branchTarget disp
    update fun s => s.jump t) s

/-- Bcc (R293): the displacement word is consumed, taken or not. -/
def execBcc (c : Cond) (disp : Byte) (s : State) : Host.Outcome State Fault Refusal :=
  execute (do
    let t ← branchTarget disp
    update fun s => if condHolds c s.ccr then s.jump t else s) s

/-- BSR (R294): the address of the next instruction is pushed. -/
def execBsr (disp : Byte) (s : State) : Host.Outcome State Fault Refusal :=
  execute (do
    let t ← branchTarget disp
    let next ← look fun s => s.pc
    push32 next
    update fun s => s.jump t) s

/-- DBcc (R295): the branch is taken when the condition is false and the counter has not passed zero. -/
def execDbcc (c : Cond) (dn : RegNo) (s : State) : Host.Outcome State Fault Refusal :=
  execute (do
    let t ← branchTarget 0
    let holds ← look fun s => condHolds c s.ccr
    if holds then pure ()
    else do
      let k ← look fun s => lowPart .w (s.dreg dn) - 1
      update fun s => s.setDlow dn .w k
      if k ≠ 0xFFFF then update fun s => s.jump t else pure ()) s

/-- JMP (R296): the effective address itself is the target. -/
def execJmp (ea : Ea) (s : State) : Host.Outcome State Fault Refusal :=
  execute (do
    let a ← eaAddr .l ea
    update fun s => s.jump a) s

/-- JSR (R297): the address is computed with the A7 of before the push (D22). -/
def execJsr (ea : Ea) (s : State) : Host.Outcome State Fault Refusal :=
  execute (do
    let a ← eaAddr .l ea
    let next ← look fun s => s.pc
    push32 next
    update fun s => s.jump a) s

/-- NOP (R299): no effect but the advance of PC. -/
def execNop (s : State) : Host.Outcome State Fault Refusal := execute (pure ()) s

/-- RTS (R310). -/
def execRts (s : State) : Host.Outcome State Fault Refusal :=
  execute (do
    let t ← pop32
    update fun s => s.jump t) s

/-- RTR (R311): only the condition codes are restored. -/
def execRtr (s : State) : Host.Outcome State Fault Refusal :=
  execute (do
    let w ← pop16
    update fun s => s.writeCcr w
    let t ← pop32
    update fun s => s.jump t) s

/-- RTE (R312, R400): both pops use the supervisor stack, then SR and PC are replaced. -/
def execRte (s : State) : Host.Outcome State Fault Refusal :=
  execute (privileged do
    let w ← pop16
    let t ← pop32
    update fun s => (s.writeSr w).jump t) s

end Sys2Proof.Machine
end

