-- ==== Sys2Proof/Machine/Logic.lean ====
section
/-! DEFINITION. The logical instructions (42_logical.md) and TAS (48_multiprocessor.md). -/

namespace Sys2Proof.Machine

/-- AND `<ea>,Dn` (R231). -/
def execAndToDn (sz : Size) (dn : RegNo) (ea : Ea) (s : State) : Host.Outcome State Fault Refusal :=
  execute (eaToDn sz dn ea fun d v => logicResult (d &&& v)) s

/-- AND `Dn,<ea>` (R231). -/
def execAndToEa (sz : Size) (dn : RegNo) (ea : Ea) (s : State) : Host.Outcome State Fault Refusal :=
  execute (dnToEa sz dn ea fun d v => logicResult (d &&& v)) s

/-- OR `<ea>,Dn` (R232). -/
def execOrToDn (sz : Size) (dn : RegNo) (ea : Ea) (s : State) : Host.Outcome State Fault Refusal :=
  execute (eaToDn sz dn ea fun d v => logicResult (d ||| v)) s

/-- OR `Dn,<ea>` (R232). -/
def execOrToEa (sz : Size) (dn : RegNo) (ea : Ea) (s : State) : Host.Outcome State Fault Refusal :=
  execute (dnToEa sz dn ea fun d v => logicResult (d ||| v)) s

/-- EOR (R233). -/
def execEor (sz : Size) (dn : RegNo) (ea : Ea) (s : State) : Host.Outcome State Fault Refusal :=
  execute (dnToEa sz dn ea fun d v => logicResult (d ^^^ v)) s

/-- ANDI (R234). -/
def execAndi (sz : Size) (ea : Ea) (s : State) : Host.Outcome State Fault Refusal :=
  execute (immToEa sz ea fun d v => logicResult (d &&& v)) s

/-- ORI (R235). -/
def execOri (sz : Size) (ea : Ea) (s : State) : Host.Outcome State Fault Refusal :=
  execute (immToEa sz ea fun d v => logicResult (d ||| v)) s

/-- EORI (R236). -/
def execEori (sz : Size) (ea : Ea) (s : State) : Host.Outcome State Fault Refusal :=
  execute (immToEa sz ea fun d v => logicResult (d ^^^ v)) s

/-- NOT (R237). -/
def execNot (sz : Size) (ea : Ea) (s : State) : Host.Outcome State Fault Refusal :=
  execute (modifyEa sz ea fun d => logicResult (~~~d)) s

/-- TST (R238). -/
def execTst (sz : Size) (ea : Ea) (s : State) : Host.Outcome State Fault Refusal :=
  execute (do
    let v ← readEa sz ea
    setFlags fun f => moveFlags f v) s

/-- Scc (R239): the byte is written and not read. -/
def execScc (c : Cond) (ea : Ea) (s : State) : Host.Outcome State Fault Refusal :=
  execute (do
    let t ← look fun s => condHolds c s.ccr
    writeEa .b ea (if t then 0xFF else 0)) s

/-- A half of TAS's read-modify-write cycle: it is never retried, a request for a retry is a bus error (20_memory.md R79,
R352, 60_exceptions.md R428). -/
def neverRetried (cyc : Cycle) : M Unit := do
  let retry ← look fun s => s.retries cyc
  if retry then do
    countCycle
    abort (.access .busError cyc false)
  else pure ()

/-- TAS's address, read and flags; the result is the address and the byte to write (R350). -/
def tasRead (ea : Ea) : M (Long × Byte) := do
  let a ← eaAddr .b ea
  let fc ← look State.dataFc
  neverRetried (.reading fc a false)
  let d ← readByte fc a
  setFlags fun f => moveFlags f d
  return (a, d ||| 0x80)

/-- TAS's write (R350). -/
def tasWrite (a : Long) (v : Byte) : M Unit := do
  let fc ← look State.dataFc
  neverRetried (.writing fc a false (v.setWidth 16))
  writeByte fc a v

/-- The memory form of TAS: one atomic read and write (R351, with one bus master D1). A bus error in the write half
finds the flags written (R352, log 26). -/
def tasMemory (ea : Ea) (s : State) : Host.Outcome State Fault Refusal :=
  match tasRead ea s with
  | .ok (a, v) s1 => finish { s with sr := s1.sr } (tasWrite a v s1)
  | .error x s1 => finish s (.error x s1)

/-- TAS (R350). -/
def execTas (ea : Ea) (s : State) : Host.Outcome State Fault Refusal :=
  match ea with
  | .dn n =>
    execute (modifyEa .b (.dn n) fun d => do
      setFlags fun f => moveFlags f d
      return d ||| 0x80) s
  | .an _ | .pcDisp | .pcIndex | .imm => .refused .notAnOperand
  | ea => tasMemory ea s

end Sys2Proof.Machine
end

