-- ==== Sys2Proof/Machine/Move.lean ====
section
/-! DEFINITION. The data movement instructions (40_data_movement.md). -/

namespace Sys2Proof.Machine

/-- MOVE (R162, R163): the source completely, then the flags, then the destination. -/
def execMove (sz : Size) (src dst : Ea) (s : State) : Host.Outcome State Fault Refusal :=
  execute (do
    let v ← readEa sz src
    setFlags fun f => moveFlags f v
    writeEa sz dst v) s

/-- MOVEA (R164): all 32 bits, a word sign-extended; no flag changes. -/
def execMovea (sz : Size) (src : Ea) (an : RegNo) (s : State) : Host.Outcome State Fault Refusal :=
  execute (do
    let v ← readEa sz src
    update fun s => s.setAreg an (extendOperand sz v)) s

/-- MOVEQ (R165). -/
def execMoveq (data : Byte) (dn : RegNo) (s : State) : Host.Outcome State Fault Refusal :=
  execute (do
    setFlags fun f => moveFlags f (data.signExtend 32)
    update fun s => s.setDreg dn (data.signExtend 32)) s

/-- The registers of MOVEM in the order of the mask bits (R166). -/
def movemOrder : List (Fin 16) := [0, 1, 2, 3, 4, 5, 6, 7, 8, 9, 10, 11, 12, 13, 14, 15]

/-- The transfers of MOVEM to memory at rising addresses (R167). -/
def movemStore (sz : Size) (mask : Word) : List (Fin 16) → Long → M Unit
  | [], _ => pure ()
  | i :: is, a =>
    if mask.getLsbD i.val then do
      let v ← look fun s => lowPart sz (s.rreg i)
      memWrite sz a v
      movemStore sz mask is (a + BitVec.ofNat 32 sz.bytes)
    else movemStore sz mask is a

/-- The transfers of MOVEM with predecrement, at falling addresses: mask bit i names R[15 − i] (R168). The result is
the last address. -/
def movemStoreDown (sz : Size) (mask : Word) : List (Fin 16) → Long → M Long
  | [], a => pure a
  | i :: is, a =>
    if mask.getLsbD i.val then do
      let v ← look fun s => lowPart sz (s.rreg (Fin.rev i))
      memWrite sz (a - BitVec.ofNat 32 sz.bytes) v
      movemStoreDown sz mask is (a - BitVec.ofNat 32 sz.bytes)
    else movemStoreDown sz mask is a

/-- The transfers of MOVEM to registers, all 32 bits of each, words sign-extended (R169). The result is the address
after the last. -/
def movemLoad (fc : BitVec 3) (sz : Size) (mask : Word) : List (Fin 16) → Long → M Long
  | [], a => pure a
  | i :: is, a =>
    if mask.getLsbD i.val then do
      let v ← readSized fc a sz
      update fun s => s.setRreg i (extendOperand sz v)
      movemLoad fc sz mask is (a + BitVec.ofNat 32 sz.bytes)
    else movemLoad fc sz mask is a

/-- MOVEM registers to memory, control alterable modes (R167). -/
def execMovemToMem (sz : Size) (ea : Ea) (s : State) : Host.Outcome State Fault Refusal :=
  execute (do
    let mask ← fetch16
    let a ← eaAddr sz ea
    movemStore sz mask movemOrder a) s

/-- MOVEM registers to memory with predecrement (R168): the address register is written last (D11). -/
def execMovemPredec (sz : Size) (an : RegNo) (s : State) : Host.Outcome State Fault Refusal :=
  execute (do
    let mask ← fetch16
    let a ← look fun s => s.areg an
    let last ← movemStoreDown sz mask movemOrder a
    update fun s => s.setAreg an last) s

/-- MOVEM memory to registers (R169): with `(An)+` the final address overwrites the register (D11). -/
def execMovemToRegs (sz : Size) (ea : Ea) (s : State) : Host.Outcome State Fault Refusal :=
  execute (do
    let mask ← fetch16
    match ea with
    | .post n =>
      let a ← look fun s => s.areg n
      let fc ← look State.dataFc
      let last ← movemLoad fc sz mask movemOrder a
      update fun s => s.setAreg n last
    | ea =>
      let a ← eaAddr sz ea
      let fc ← look fun s => s.operandFc ea
      let _ ← movemLoad fc sz mask movemOrder a) s

/-- A long word with the byte whose lowest bit is bit k replaced. -/
def insertByte (k : Nat) (old : Long) (b : Byte) : Long :=
  (old &&& ~~~((0xFF : Long) <<< k)) ||| (b.setWidth 32 <<< k)

/-- The bit positions of MOVEP's bytes, high-order byte first (R175). -/
def movepBytes : Size → List Nat
  | .l => [24, 16, 8, 0]
  | _ => [8, 0]

/-- MOVEP from memory: alternate byte addresses (R175). -/
def movepLoad (dn : RegNo) : List Nat → Long → M Unit
  | [], _ => pure ()
  | k :: ks, a => do
    let b ← memRead .b a
    update fun s => s.setDreg dn (insertByte k (s.dreg dn) b)
    movepLoad dn ks (a + 2)

/-- MOVEP to memory (R175). -/
def movepStore (dn : RegNo) : List Nat → Long → M Unit
  | [], _ => pure ()
  | k :: ks, a => do
    let b ← look fun s => (s.dreg dn).extractLsb' k 8
    memWrite .b a b
    movepStore dn ks (a + 2)

/-- MOVEP (R175). -/
def execMovep (toMem : Bool) (sz : Size) (dn an : RegNo) (s : State) : Host.Outcome State Fault Refusal :=
  execute (do
    let a ← eaAddr .b (.disp an)
    if toMem then movepStore dn (movepBytes sz) a else movepLoad dn (movepBytes sz) a) s

/-- LEA (R176): no memory access, no alignment check. -/
def execLea (an : RegNo) (ea : Ea) (s : State) : Host.Outcome State Fault Refusal :=
  execute (do
    let a ← eaAddr .l ea
    update fun s => s.setAreg an a) s

/-- PEA (R177): the address is computed before SP is decremented (D22). -/
def execPea (ea : Ea) (s : State) : Host.Outcome State Fault Refusal :=
  execute (do
    let a ← eaAddr .l ea
    push32 a) s

/-- EXG Dx,Dy (R178). -/
def execExgDD (x y : RegNo) (s : State) : Host.Outcome State Fault Refusal :=
  execute (update fun s => (s.setDreg x (s.dreg y)).setDreg y (s.dreg x)) s

/-- EXG Ax,Ay (R178). -/
def execExgAA (x y : RegNo) (s : State) : Host.Outcome State Fault Refusal :=
  execute (update fun s => (s.setAreg x (s.areg y)).setAreg y (s.areg x)) s

/-- EXG Dx,Ay (R178). -/
def execExgDA (x y : RegNo) (s : State) : Host.Outcome State Fault Refusal :=
  execute (update fun s => (s.setDreg x (s.areg y)).setAreg y (s.dreg x)) s

/-- LINK (R179), in the order the rule prints: with A7 the decremented SP is what is stored (log 25). -/
def execLink (an : RegNo) (s : State) : Host.Outcome State Fault Refusal :=
  execute (do
    let d ← fetch16
    update fun s => s.setAreg spReg (s.areg spReg - 4)
    let sp ← look fun s => s.areg spReg
    let v ← look fun s => s.areg an
    memWrite .l sp v
    update fun s => s.setAreg an (s.areg spReg)
    update fun s => s.setAreg spReg (s.areg spReg + d.signExtend 32)) s

/-- UNLK (R180), in the order the rule prints (log 25). -/
def execUnlk (an : RegNo) (s : State) : Host.Outcome State Fault Refusal :=
  execute (do
    update fun s => s.setAreg spReg (s.areg an)
    let sp ← look fun s => s.areg spReg
    let v ← memRead .l sp
    update fun s => s.setAreg an v
    update fun s => s.setAreg spReg (s.areg spReg + 4)) s

end Sys2Proof.Machine
end

