-- ==== Sys2Proof/Machine/Shift.lean ====
section
/-! DEFINITION. The shift and rotate instructions (43_shift_rotate.md). -/

namespace Sys2Proof.Machine

/-- ASL of a data register (R255). -/
def execAslReg (sz : Size) (cnt : ShiftCount) (dn : RegNo) (s : State) : Host.Outcome State Fault Refusal :=
  execute (shiftReg .asl sz cnt dn) s

/-- ASL of a memory word by one bit (R255, R252). -/
def execAslMem (ea : Ea) (s : State) : Host.Outcome State Fault Refusal :=
  execute (shiftMem .asl ea) s

/-- ASR of a data register (R256). -/
def execAsrReg (sz : Size) (cnt : ShiftCount) (dn : RegNo) (s : State) : Host.Outcome State Fault Refusal :=
  execute (shiftReg .asr sz cnt dn) s

/-- ASR of a memory word by one bit (R256, R252). -/
def execAsrMem (ea : Ea) (s : State) : Host.Outcome State Fault Refusal :=
  execute (shiftMem .asr ea) s

/-- LSL of a data register (R257). -/
def execLslReg (sz : Size) (cnt : ShiftCount) (dn : RegNo) (s : State) : Host.Outcome State Fault Refusal :=
  execute (shiftReg .lsl sz cnt dn) s

/-- LSL of a memory word by one bit (R257, R252). -/
def execLslMem (ea : Ea) (s : State) : Host.Outcome State Fault Refusal :=
  execute (shiftMem .lsl ea) s

/-- LSR of a data register (R258). -/
def execLsrReg (sz : Size) (cnt : ShiftCount) (dn : RegNo) (s : State) : Host.Outcome State Fault Refusal :=
  execute (shiftReg .lsr sz cnt dn) s

/-- LSR of a memory word by one bit (R258, R252). -/
def execLsrMem (ea : Ea) (s : State) : Host.Outcome State Fault Refusal :=
  execute (shiftMem .lsr ea) s

/-- ROL of a data register (R259). -/
def execRolReg (sz : Size) (cnt : ShiftCount) (dn : RegNo) (s : State) : Host.Outcome State Fault Refusal :=
  execute (shiftReg .rol sz cnt dn) s

/-- ROL of a memory word by one bit (R259, R252). -/
def execRolMem (ea : Ea) (s : State) : Host.Outcome State Fault Refusal :=
  execute (shiftMem .rol ea) s

/-- ROR of a data register (R260). -/
def execRorReg (sz : Size) (cnt : ShiftCount) (dn : RegNo) (s : State) : Host.Outcome State Fault Refusal :=
  execute (shiftReg .ror sz cnt dn) s

/-- ROR of a memory word by one bit (R260, R252). -/
def execRorMem (ea : Ea) (s : State) : Host.Outcome State Fault Refusal :=
  execute (shiftMem .ror ea) s

/-- ROXL of a data register (R261). -/
def execRoxlReg (sz : Size) (cnt : ShiftCount) (dn : RegNo) (s : State) : Host.Outcome State Fault Refusal :=
  execute (shiftReg .roxl sz cnt dn) s

/-- ROXL of a memory word by one bit (R261, R252). -/
def execRoxlMem (ea : Ea) (s : State) : Host.Outcome State Fault Refusal :=
  execute (shiftMem .roxl ea) s

/-- ROXR of a data register (R262). -/
def execRoxrReg (sz : Size) (cnt : ShiftCount) (dn : RegNo) (s : State) : Host.Outcome State Fault Refusal :=
  execute (shiftReg .roxr sz cnt dn) s

/-- ROXR of a memory word by one bit (R262, R252). -/
def execRoxrMem (ea : Ea) (s : State) : Host.Outcome State Fault Refusal :=
  execute (shiftMem .roxr ea) s

/-- SWAP (R264). -/
def execSwap (dn : RegNo) (s : State) : Host.Outcome State Fault Refusal :=
  execute (do
    let v ← look fun s => s.dreg dn
    let r ← logicResult (v.extractLsb' 0 16 ++ v.extractLsb' 16 16 : Long)
    update fun s => s.setDreg dn r) s

end Sys2Proof.Machine
end

