-- ==== Sys2Proof/Machine/System.lean ====
section
/-! DEFINITION. The system control instructions (47_system_control.md) and the two unimplemented lines
(60_exceptions.md R379, R380). -/

namespace Sys2Proof.Machine

/-- ANDI to CCR (R322): the high byte of the word is ignored (D32). -/
def execAndiToCcr (s : State) : Host.Outcome State Fault Refusal :=
  execute (do
    let w ← fetch16
    update fun s => s.writeCcr (s.sr &&& w)) s

/-- EORI to CCR (R323). -/
def execEoriToCcr (s : State) : Host.Outcome State Fault Refusal :=
  execute (do
    let w ← fetch16
    update fun s => s.writeCcr (s.sr ^^^ w)) s

/-- ORI to CCR (R324). -/
def execOriToCcr (s : State) : Host.Outcome State Fault Refusal :=
  execute (do
    let w ← fetch16
    update fun s => s.writeCcr (s.sr ||| w)) s

/-- ANDI to SR (R325). -/
def execAndiToSr (s : State) : Host.Outcome State Fault Refusal :=
  execute (privileged do
    let w ← fetch16
    update fun s => s.writeSr (s.sr &&& w)) s

/-- EORI to SR (R326). -/
def execEoriToSr (s : State) : Host.Outcome State Fault Refusal :=
  execute (privileged do
    let w ← fetch16
    update fun s => s.writeSr (s.sr ^^^ w)) s

/-- ORI to SR (R327). -/
def execOriToSr (s : State) : Host.Outcome State Fault Refusal :=
  execute (privileged do
    let w ← fetch16
    update fun s => s.writeSr (s.sr ||| w)) s

/-- MOVE to CCR (R331): a word operand, of which bits 4 to 0 are used. -/
def execMoveToCcr (ea : Ea) (s : State) : Host.Outcome State Fault Refusal :=
  execute (do
    let w ← readEa .w ea
    update fun s => s.writeCcr w) s

/-- MOVE to SR (R332): the operand is read with the privilege of the old SR. -/
def execMoveToSr (ea : Ea) (s : State) : Host.Outcome State Fault Refusal :=
  execute (privileged do
    let w ← readEa .w ea
    update fun s => s.writeSr w) s

/-- MOVE from SR (R333): not privileged on the MC68000; the operand is written and not read. -/
def execMoveFromSr (ea : Ea) (s : State) : Host.Outcome State Fault Refusal :=
  execute (do
    let w ← look fun s => s.sr
    writeEa .w ea w) s

/-- MOVE An,USP (R336). -/
def execMoveToUsp (an : RegNo) (s : State) : Host.Outcome State Fault Refusal :=
  execute (privileged (update fun s => { s with usp := s.areg an })) s

/-- MOVE USP,An (R337). -/
def execMoveFromUsp (an : RegNo) (s : State) : Host.Outcome State Fault Refusal :=
  execute (privileged (update fun s => s.setAreg an s.usp)) s

/-- RESET (R339): the RESET pin is driven once; the processor's state does not change (D26, log 21). -/
def execReset (s : State) : Host.Outcome State Fault Refusal :=
  execute (privileged (update fun s => { s with deviceResets := s.deviceResets + 1 })) s

/-- STOP (R340): SR is loaded as written, S included (D20), and the processor stops. -/
def execStop (s : State) : Host.Outcome State Fault Refusal :=
  execute (privileged do
    let w ← fetch16
    update fun s => { s.writeSr w with run := .stopped }) s

/-- CHK's flags: X kept, Z, V and C free (R329, D9). -/
def chkFlags (n : Bool) (free : Long) (f : Ccr) : Ccr :=
  { x := f.x, n := n, z := free.getLsbD 1, v := free.getLsbD 2, c := free.getLsbD 3 }

/-- CHK (R329): signed word comparisons, both bounds inclusive; in bounds N is free as well. -/
def execChk (dn : RegNo) (ea : Ea) (s : State) : Host.Outcome State Fault Refusal :=
  execute (do
    let bound ← readEa .w ea
    let v ← look fun s => lowPart .w (s.dreg dn)
    let free ← draw
    if v.toInt < 0 then do
      setFlags (chkFlags true free)
      raiseTrap 6
    else if bound.toInt < v.toInt then do
      setFlags (chkFlags false free)
      raiseTrap 6
    else setFlags (chkFlags (free.getLsbD 0) free)) s

/-- ILLEGAL (R330). -/
def execIllegal (s : State) : Host.Outcome State Fault Refusal := execute (raiseUnexecuted 4) s

/-- TRAP #n (R341): vector 32 + n. -/
def execTrap (n : Fin 16) (s : State) : Host.Outcome State Fault Refusal :=
  execute (raiseTrap (32 + BitVec.ofNat 8 n.val)) s

/-- TRAPV (R342). -/
def execTrapv (s : State) : Host.Outcome State Fault Refusal :=
  execute (do
    let v ← look fun s => s.ccr.v
    if v then raiseTrap 7 else pure ()) s

/-- A word 1010 xxxx xxxx xxxx (60_exceptions.md R379): vector 10, whatever the low 12 bits. -/
def execLineA (_low : BitVec 12) (s : State) : Host.Outcome State Fault Refusal := execute (raiseUnexecuted 10) s

/-- A word 1111 xxxx xxxx xxxx (60_exceptions.md R380): vector 11, whatever the low 12 bits. -/
def execLineF (_low : BitVec 12) (s : State) : Host.Outcome State Fault Refusal := execute (raiseUnexecuted 11) s

end Sys2Proof.Machine
end

