-- ==== Sys2Proof/Machine/Dispatch.lean ====
section
/-! DEFINITION. The meaning of each instruction: one arm per constructor of `Instr`. -/

namespace Sys2Proof.Machine

/-- The meaning of an instruction in the state that the fetch of its operation word has left (30_encoding.md R104). -/
def exec (i : Instr) (s : State) : Host.Outcome State Fault Refusal :=
  match i with
  | .ori sz ea => Sys2Proof.Machine.execOri sz ea s
  | .oriToCcr => Sys2Proof.Machine.execOriToCcr s
  | .oriToSr => Sys2Proof.Machine.execOriToSr s
  | .andi sz ea => Sys2Proof.Machine.execAndi sz ea s
  | .andiToCcr => Sys2Proof.Machine.execAndiToCcr s
  | .andiToSr => Sys2Proof.Machine.execAndiToSr s
  | .subi sz ea => Sys2Proof.Machine.execSubi sz ea s
  | .addi sz ea => Sys2Proof.Machine.execAddi sz ea s
  | .eori sz ea => Sys2Proof.Machine.execEori sz ea s
  | .eoriToCcr => Sys2Proof.Machine.execEoriToCcr s
  | .eoriToSr => Sys2Proof.Machine.execEoriToSr s
  | .cmpi sz ea => Sys2Proof.Machine.execCmpi sz ea s
  | .btstImm ea => Sys2Proof.Machine.execBtstImm ea s
  | .btstReg n ea => Sys2Proof.Machine.execBtstReg n ea s
  | .bchgImm ea => Sys2Proof.Machine.execBchgImm ea s
  | .bchgReg n ea => Sys2Proof.Machine.execBchgReg n ea s
  | .bclrImm ea => Sys2Proof.Machine.execBclrImm ea s
  | .bclrReg n ea => Sys2Proof.Machine.execBclrReg n ea s
  | .bsetImm ea => Sys2Proof.Machine.execBsetImm ea s
  | .bsetReg n ea => Sys2Proof.Machine.execBsetReg n ea s
  | .movep toMem sz dn an => Sys2Proof.Machine.execMovep toMem sz dn an s
  | .move sz src dst => Sys2Proof.Machine.execMove sz src dst s
  | .movea sz src an => Sys2Proof.Machine.execMovea sz src an s
  | .negx sz ea => Sys2Proof.Machine.execNegx sz ea s
  | .moveFromSr ea => Sys2Proof.Machine.execMoveFromSr ea s
  | .chk dn ea => Sys2Proof.Machine.execChk dn ea s
  | .lea an ea => Sys2Proof.Machine.execLea an ea s
  | .clr sz ea => Sys2Proof.Machine.execClr sz ea s
  | .neg sz ea => Sys2Proof.Machine.execNeg sz ea s
  | .moveToCcr ea => Sys2Proof.Machine.execMoveToCcr ea s
  | .not sz ea => Sys2Proof.Machine.execNot sz ea s
  | .moveToSr ea => Sys2Proof.Machine.execMoveToSr ea s
  | .nbcd ea => Sys2Proof.Machine.execNbcd ea s
  | .swap dn => Sys2Proof.Machine.execSwap dn s
  | .pea ea => Sys2Proof.Machine.execPea ea s
  | .ext sz dn => Sys2Proof.Machine.execExt sz dn s
  | .movemToMem sz ea => Sys2Proof.Machine.execMovemToMem sz ea s
  | .movemPredec sz an => Sys2Proof.Machine.execMovemPredec sz an s
  | .tst sz ea => Sys2Proof.Machine.execTst sz ea s
  | .tas ea => Sys2Proof.Machine.execTas ea s
  | .illegal => Sys2Proof.Machine.execIllegal s
  | .movemToRegs sz ea => Sys2Proof.Machine.execMovemToRegs sz ea s
  | .trap n => Sys2Proof.Machine.execTrap n s
  | .link an => Sys2Proof.Machine.execLink an s
  | .unlk an => Sys2Proof.Machine.execUnlk an s
  | .moveToUsp an => Sys2Proof.Machine.execMoveToUsp an s
  | .moveFromUsp an => Sys2Proof.Machine.execMoveFromUsp an s
  | .reset => Sys2Proof.Machine.execReset s
  | .nop => Sys2Proof.Machine.execNop s
  | .stop => Sys2Proof.Machine.execStop s
  | .rte => Sys2Proof.Machine.execRte s
  | .rts => Sys2Proof.Machine.execRts s
  | .trapv => Sys2Proof.Machine.execTrapv s
  | .rtr => Sys2Proof.Machine.execRtr s
  | .jsr ea => Sys2Proof.Machine.execJsr ea s
  | .jmp ea => Sys2Proof.Machine.execJmp ea s
  | .addq sz q ea => Sys2Proof.Machine.execAddq sz q ea s
  | .subq sz q ea => Sys2Proof.Machine.execSubq sz q ea s
  | .scc c ea => Sys2Proof.Machine.execScc c ea s
  | .dbcc c dn => Sys2Proof.Machine.execDbcc c dn s
  | .bra disp => Sys2Proof.Machine.execBra disp s
  | .bsr disp => Sys2Proof.Machine.execBsr disp s
  | .bcc c disp => Sys2Proof.Machine.execBcc c disp s
  | .moveq data dn => Sys2Proof.Machine.execMoveq data dn s
  | .orToDn sz dn ea => Sys2Proof.Machine.execOrToDn sz dn ea s
  | .orToEa sz dn ea => Sys2Proof.Machine.execOrToEa sz dn ea s
  | .divu dn ea => Sys2Proof.Machine.execDivu dn ea s
  | .divs dn ea => Sys2Proof.Machine.execDivs dn ea s
  | .sbcd m x y => Sys2Proof.Machine.execSbcd m x y s
  | .subToDn sz dn ea => Sys2Proof.Machine.execSubToDn sz dn ea s
  | .subToEa sz dn ea => Sys2Proof.Machine.execSubToEa sz dn ea s
  | .suba sz an ea => Sys2Proof.Machine.execSuba sz an ea s
  | .subx sz m x y => Sys2Proof.Machine.execSubx sz m x y s
  | .addToDn sz dn ea => Sys2Proof.Machine.execAddToDn sz dn ea s
  | .addToEa sz dn ea => Sys2Proof.Machine.execAddToEa sz dn ea s
  | .adda sz an ea => Sys2Proof.Machine.execAdda sz an ea s
  | .addx sz m x y => Sys2Proof.Machine.execAddx sz m x y s
  | .cmp sz dn ea => Sys2Proof.Machine.execCmp sz dn ea s
  | .cmpa sz an ea => Sys2Proof.Machine.execCmpa sz an ea s
  | .eor sz dn ea => Sys2Proof.Machine.execEor sz dn ea s
  | .cmpm sz x y => Sys2Proof.Machine.execCmpm sz x y s
  | .andToDn sz dn ea => Sys2Proof.Machine.execAndToDn sz dn ea s
  | .andToEa sz dn ea => Sys2Proof.Machine.execAndToEa sz dn ea s
  | .mulu dn ea => Sys2Proof.Machine.execMulu dn ea s
  | .muls dn ea => Sys2Proof.Machine.execMuls dn ea s
  | .abcd m x y => Sys2Proof.Machine.execAbcd m x y s
  | .exgDD x y => Sys2Proof.Machine.execExgDD x y s
  | .exgAA x y => Sys2Proof.Machine.execExgAA x y s
  | .exgDA x y => Sys2Proof.Machine.execExgDA x y s
  | .aslReg sz cnt dn => Sys2Proof.Machine.execAslReg sz cnt dn s
  | .aslMem ea => Sys2Proof.Machine.execAslMem ea s
  | .asrReg sz cnt dn => Sys2Proof.Machine.execAsrReg sz cnt dn s
  | .asrMem ea => Sys2Proof.Machine.execAsrMem ea s
  | .lslReg sz cnt dn => Sys2Proof.Machine.execLslReg sz cnt dn s
  | .lslMem ea => Sys2Proof.Machine.execLslMem ea s
  | .lsrReg sz cnt dn => Sys2Proof.Machine.execLsrReg sz cnt dn s
  | .lsrMem ea => Sys2Proof.Machine.execLsrMem ea s
  | .rolReg sz cnt dn => Sys2Proof.Machine.execRolReg sz cnt dn s
  | .rolMem ea => Sys2Proof.Machine.execRolMem ea s
  | .rorReg sz cnt dn => Sys2Proof.Machine.execRorReg sz cnt dn s
  | .rorMem ea => Sys2Proof.Machine.execRorMem ea s
  | .roxlReg sz cnt dn => Sys2Proof.Machine.execRoxlReg sz cnt dn s
  | .roxlMem ea => Sys2Proof.Machine.execRoxlMem ea s
  | .roxrReg sz cnt dn => Sys2Proof.Machine.execRoxrReg sz cnt dn s
  | .roxrMem ea => Sys2Proof.Machine.execRoxrMem ea s
  | .lineA low => Sys2Proof.Machine.execLineA low s
  | .lineF low => Sys2Proof.Machine.execLineF low s

end Sys2Proof.Machine
end

