-- ==== Sys2Proof/Machine/Boundary.lean ====
section
/-! DEFINITION. What happens between instructions: reset, trace, interrupts, and the fetch of the next operation word
(60_exceptions.md R362 to R364, R392 to R399, R425, R427; 70_reset_and_hazards.md R430 to R433). -/

namespace Sys2Proof.Machine

/-! Failures outside an instruction. -/

/-- An error that finds the double-fault window open is a double bus fault (60_exceptions.md R410). That an odd initial PC,
or an odd handler address fetched after a trace or interrupt taken in the window, is one too is log 11 (D30, U27). -/
def isDoubleFault (w : FaultWindow) : Bool := decide (w ≠ .none)

/-- The end of a piece of processing between instructions, begun in `base` (R410, R411). -/
def finishBoundary (base : State) (p : Progress) (r : EStateM.Result Abort State Unit) :
    Host.Outcome State Fault Refusal :=
  match r with
  | .ok _ s => .next s
  | .error (.access e cyc inExc) s =>
    if isDoubleFault base.window then .next (haltFrom base s) else accessErrorTaken base s e cyc inExc p
  | .error .reset s => .next (abandonedFrom base s)
  | .error (.fault f) _ => .fault f
  | .error (.refuse x) _ => .refused x

/-! Reset (70_reset_and_hazards.md R430, R431). -/

/-- Step 2 of the sequence, and the registers that reset leaves undefined, which take free values (R431, D23; log 13). -/
def State.resetRegisters (s : State) : State :=
  { s with
    d := Vector.ofFn fun i => Config.free (s.draws + i.val)
    a := Vector.ofFn fun i => Config.free (s.draws + 8 + i.val)
    usp := Config.free (s.draws + 15)
    sr := withCcr 0x2700 (ccrOf ((Config.free (s.draws + 16)).setWidth 16))
    run := .running
    nmiPending := false
    tracePending := false
    window := .reset
    stale := []
    resetIn := none
    draws := s.draws + 17 }

/-- The reset sequence: SSP and PC from vectors 0 and 1, in supervisor program space (R430). -/
def hardReset : M Unit := do
  update State.resetRegisters
  let ssp ← readLong 6 0
  update fun s => { s with ssp := ssp }
  let pc ← readLong 6 4
  update fun s => { s with pc := pc }

/-- External reset: a failure of a vector read halts the machine (R432). No second reset comes in the sequence. -/
def resetStep (s : State) : Host.Outcome State Fault Refusal :=
  match hardReset s with
  | .ok _ s' => .next s'
  | .error (.access _ _ _) s' => .next { s' with run := .halted }
  | .error .reset s' => .next s'
  | .error (.fault f) _ => .fault f
  | .error (.refuse r) _ => .refused r

/-! Trace (60_exceptions.md R392, R393). -/

/-- The trace exception: vector 9, the saved PC is that of the next instruction. -/
def takeTrace : M Unit := do
  update fun s => { s with tracePending := false }
  let next ← look fun s => s.pc
  enterException 9 next none

/-! Interrupts (60_exceptions.md R395 to R398). -/

/-- What the outside presents when no sample is left: no request (log 5). -/
def quietSample : Sample := { reset := none, level := 0, ack := .autovector }

/-- The next sample of the inputs. -/
def State.nextSample (s : State) : Sample := s.inputs.headD quietSample

/-- The inputs sampled: the level, and the memory of a transition to level 7 (R396, D15). -/
def State.sampled (s : State) : State :=
  { s with
    inputs := s.inputs.tail
    ipl := s.nextSample.level
    nmiPending := s.nmiPending || (decide (s.nextSample.level = 7) && decide (s.ipl ≠ 7)) }

/-- The level of the interrupt accepted at this boundary (R395, R396). -/
def State.acceptedLevel (s : State) : Option (BitVec 3) :=
  if s.nmiPending then some 7
  else if s.mask < s.ipl then some s.ipl
  else none

/-- The answer to an acknowledge as the vector number of an interrupt of a level (R397); no answer ever is a stuck state
(D18). -/
def vectorOf (level : BitVec 3) : Acknowledge → M Byte
  | .vector v => pure v
  | .autovector => pure (24 + level.setWidth 8)
  | .spurious => pure 24
  | .silent => hang

/-- The interrupt acknowledge cycle (R397). -/
def acknowledgeVector (level : BitVec 3) (ack : Acknowledge) : M Byte := do
  countCycle
  vectorOf level ack

/-- The interrupt exception (R398). The acknowledge of level 7 clears its memory (R396). -/
def takeInterrupt (level : BitVec 3) (ack : Acknowledge) : M Unit := do
  let n ← acknowledgeVector level ack
  update fun s => if level = 7 then { s with nmiPending := false } else s
  let next ← look fun s => s.pc
  enterException n next (some level)

/-! The next instruction. -/

/-- The operation word is fetched into IR; a trace is due after the instruction if T is set now (R392). -/
def fetchOpword : M Word := do
  let t ← look State.tracing
  let w ← fetch16
  update fun s => { s with ir := w, window := .none, tracePending := t }
  return w

/-- An operation word that is no instruction: vector 4, nothing of it is executed (30_encoding.md R150, 60_exceptions.md
R378). -/
def execUnassigned (s : State) : Host.Outcome State Fault Refusal := execute (raiseUnexecuted 4) s

/-- The meaning of an operation word. -/
def execWord (w : Word) (s : State) : Host.Outcome State Fault Refusal :=
  match decode w with
  | .ok i => exec i s
  | .error _ => execUnassigned s

/-- Fetch, decode, execute (30_encoding.md R104). -/
def runInstruction (s : State) : Host.Outcome State Fault Refusal :=
  match fetchOpword s with
  | .ok w s1 => execWord w s1
  | .error x s1 => finishBoundary s (.fetching s.pc) (.error x s1)

/-- After the inputs have been sampled: an accepted interrupt, else the next instruction, else, stopped, nothing
(R395, R425). -/
def sampledStep (ack : Acknowledge) (s : State) : Host.Outcome State Fault Refusal :=
  match s.acceptedLevel with
  | some level => finishBoundary s .boundary (takeInterrupt level ack s)
  | none => if s.run = .stopped then .next s else runInstruction s

/-- A step without external reset. A halted machine passes over the inputs that do not reset it (R427). Trace comes
before interrupts (R363). -/
def boundaryStep (s : State) : Host.Outcome State Fault Refusal :=
  if s.run = .halted then
    match s.inputs with
    | [] => .fault .halted
    | _ :: rest => .next { s with inputs := rest }
  else if s.tracePending then finishBoundary s .boundary (takeTrace s)
  else sampledStep s.nextSample.ack s.sampled

/-- The reset sequence after what a step has left: the instruction or exception processing that the reset has cut off, or,
where it ended before the reset came, all of it (70_reset_and_hazards.md R430, R433; log 5). -/
def resetAfter (smp : Sample) (rest : List Sample) (o : Host.Outcome State Fault Refusal) :
    Host.Outcome State Fault Refusal :=
  match o with
  | .next t => resetStep { t with inputs := rest, ipl := smp.level }
  | .fault f => .fault f
  | .refused r => .refused r

/-- The state in which a step begins that a reset will cut off after n bus cycles. -/
def State.armed (s : State) (smp : Sample) (rest : List Sample) (n : Nat) : State :=
  { s with inputs := { smp with reset := none } :: rest, resetIn := some n }

/-- One step: one instruction or one exception-processing sequence (00_scope.md R15). External reset comes first, in
every run state, or in the course of the step (60_exceptions.md R362, R363, 70_reset_and_hazards.md R433). -/
def machineStep (s : State) : Host.Outcome State Fault Refusal :=
  match s.inputs with
  | [] => boundaryStep s
  | smp :: rest =>
    match smp.reset with
    | none => boundaryStep s
    | some 0 => resetStep { s with inputs := rest, ipl := smp.level }
    | some (n + 1) => resetAfter smp rest (boundaryStep (s.armed smp rest (n + 1)))

/-- Words stored from an address on, in plain memory. -/
def storeWords : List Word → Long → Memory → Memory
  | [], _, m => m
  | w :: ws, a, m => storeWords ws (a + 2) (m.setWord (addr24 a) w)

end Sys2Proof.Machine
end

