-- ==== Sys2Proof/Machine/Step.lean ====
section
/-! DEFINITION. The step of the machine, and an instruction placed where the next step fetches it. -/

namespace Sys2Proof.Machine

/-- One step of the machine. -/
def step (s : State) : Host.Outcome State Fault Refusal := machineStep s

/-- The state with an instruction's words stored at PC, in plain memory, with nothing pending that would come before
it or cut it off (log 3). -/
def State.withFetchWord (s : State) (nbits w : Nat) : State :=
  { s with
    pc := evenOf s.pc
    run := .running
    nmiPending := false
    tracePending := false
    stale := []
    mem := storeWords (tableWords nbits w) (evenOf s.pc) s.mem
    platform := { s.platform with memMap := [], responses := [] }
    inputs := []
    resetIn := none }

end Sys2Proof.Machine
end

