-- ==== Sys2Proof/Safety.lean ====
section
/-! DEFINITION. The terms in which claims about the machine are made: the invariant of every run, when an access
completes, what it reads and leaves, and what an instruction leaves unchanged. -/

namespace Sys2Proof

/-- The address register that an operand's evaluation updates (30_encoding.md R113, R114). -/
def Ea.updates : Ea → List RegNo
  | .post n | .pre n => [n]
  | _ => []

end Sys2Proof

namespace Sys2Proof.Machine

/-- The invariant: memory is in its canonical form, and the unimplemented bits of SR are 0 (10_state.md R39). -/
structure State.wf (s : State) : Prop where
  mem : Memory.wf s.mem
  sr : s.sr &&& ~~~srMask = 0

/-! When a data access completes. -/

/-- The address is even (20_memory.md R66). -/
def evenAddr (a : Long) : Bool := !a.getLsbD 0

/-- The platform answers a read cycle of a byte or word from memory, and no reset comes in this step (R71). -/
def State.readable (s : State) (fc : BitVec 3) (a : Long) (wide : Bool) : Bool :=
  s.resetIn.isNone &&
    (s.answer (.reading fc a wide) == .data || s.answer (.reading fc a wide) == .readOnly)

/-- The platform stores what a write cycle of a byte or word brings, whatever the data, and no reset comes in this step
(R71). -/
def State.storable (s : State) (fc : BitVec 3) (a : Long) (wide : Bool) : Bool :=
  s.resetIn.isNone && s.regionReply fc a false == .data &&
    (s.platform.responses.filter fun r => r.covers fc a false wide).all fun r => r.reply == .data

/-- The platform never asks for a retry of a byte cycle there (R73). -/
def State.unretried (s : State) (fc : BitVec 3) (a : Long) : Bool :=
  s.platform.responses.all fun r => !((r.covers fc a true false || r.covers fc a false false) && r.retry)

/-- A read of the size completes: the address is even where the size asks for it, and every cycle is answered (R66,
R69, R71). -/
def State.canRead (s : State) (fc : BitVec 3) (a : Long) : Size → Bool
  | .b => s.readable fc a false
  | .w => evenAddr a && s.readable fc a true
  | .l => evenAddr a && s.readable fc a true && s.readable fc (a + 2) true

/-- The fetch of the next instruction word completes (20_memory.md R70, R81). -/
def State.canFetch (s : State) : Bool := evenAddr s.pc && s.readable s.progFc s.pc true

/-- No store has hit the word at PC since the last change of flow (70_reset_and_hazards.md R450; log 10). -/
def State.freshPc (s : State) : Bool := (s.staleAt (s.cell s.progFc s.pc)).isEmpty

/-- A write of the size completes and is stored. -/
def State.canStore (s : State) (fc : BitVec 3) (a : Long) : Size → Bool
  | .b => s.storable fc a false
  | .w => evenAddr a && s.storable fc a true
  | .l => evenAddr a && s.storable fc a true && s.storable fc (a + 2) true

/-! What an access reads and what it leaves. -/

/-- One byte of memory, as a read cycle with the function code finds it. -/
def State.byteAt (s : State) (fc : BitVec 3) (a : Long) : Byte := s.mem.get (s.cell fc a)

/-- The word at an even address (R63). -/
def State.wordAt (s : State) (fc : BitVec 3) (a : Long) : Word := s.mem.getWord (s.cell fc a)

/-- The operand at an address (R63). -/
def State.load (s : State) (fc : BitVec 3) (a : Long) : (sz : Size) → BitVec sz.bits
  | .b => s.byteAt fc a
  | .w => s.wordAt fc a
  | .l => s.wordAt fc a ++ s.wordAt fc (a + 2)

/-- The instruction word at PC. -/
def State.nextWord (s : State) : Word := s.wordAt s.progFc s.pc

/-- The state after one instruction word has been consumed. -/
def State.consumed (s : State) : State := { s with pc := s.pc + 2 }

/-- The words of the prefetch window that a store replaces are noted (log 10). -/
def State.noted (s : State) (fc : BitVec 3) (a : Long) : State :=
  if s.inPrefetch a then
    { s with stale := (s.cell fc (evenOf a), s.mem.getWord (s.cell fc (evenOf a))) :: s.stale }
  else s

/-- A byte stored. -/
def State.storeByte (s : State) (fc : BitVec 3) (a : Long) (v : Byte) : State :=
  { s.noted fc a with mem := s.mem.set (s.cell fc a) v }

/-- A word stored. -/
def State.storeWord (s : State) (fc : BitVec 3) (a : Long) (v : Word) : State :=
  { s.noted fc a with mem := s.mem.setWord (s.cell fc a) v }

/-- An operand stored: a long word is two words, the high-order one first (R76). -/
def State.store (s : State) (fc : BitVec 3) (a : Long) : (sz : Size) → BitVec sz.bits → State
  | .b, v => s.storeByte fc a v
  | .w, v => s.storeWord fc a v
  | .l, v => (s.storeWord fc a (v.extractLsb' 16 16)).storeWord fc (a + 2) (v.extractLsb' 0 16)

/-- The memory cells that a store of the size at an address writes. -/
def State.cells (s : State) (fc : BitVec 3) (a : Long) : Size → List Nat
  | .b => [s.cell fc a]
  | .w => [s.cell fc a, s.cell fc a + 1]
  | .l => [s.cell fc a, s.cell fc a + 1, s.cell fc (a + 2), s.cell fc (a + 2) + 1]

/-- Every byte of memory reads as before, but those of the listed cells. -/
def MemoryKept (except : List Nat) (s t : State) : Prop :=
  ∀ fc a, s.cell fc a ∉ except → t.byteAt fc a = s.byteAt fc a

/-! What an instruction leaves unchanged. -/

/-- The state of the machine that no ordinary instruction writes: the system byte of SR with its unimplemented
neighbours, the stack pointer of the other mode, the run state, the exception state, the inputs and the platform. -/
structure SystemKept (s t : State) : Prop where
  system : t.sr.extractLsb' 5 11 = s.sr.extractLsb' 5 11
  other : if s.supervisor then t.usp = s.usp else t.ssp = s.ssp
  run : t.run = s.run
  ir : t.ir = s.ir
  ipl : t.ipl = s.ipl
  nmi : t.nmiPending = s.nmiPending
  trace : t.tracePending = s.tracePending
  window : t.window = s.window
  platform : t.platform = s.platform
  inputs : t.inputs = s.inputs
  deviceResets : t.deviceResets = s.deviceResets

/-- Every data register but those of the first list, every address register (A7 being the active stack pointer) but
those of the second, and all of `SystemKept` are unchanged. PC, the condition codes, memory, the free draws and the
bus cycles until a reset are not spoken of. -/
structure Kept (ds as : List RegNo) (s t : State) : Prop where
  dregs : ∀ n, n ∉ ds → t.dreg n = s.dreg n
  aregs : ∀ n, n ∉ as → t.areg n = s.areg n
  rest : SystemKept s t

/-- The whole frame of an instruction: registers, system state, and memory outside the listed cells. -/
structure Changes (ds as : List RegNo) (cells : List Nat) (s t : State) : Prop where
  kept : Kept ds as s t
  memory : MemoryKept cells s t

/-! What an exception entry needs and leaves (60_exceptions.md R370, R371). -/

/-- The short frame and the vector fetch of exception n complete: the supervisor stack takes the frame and the vector
can be read, all in supervisor data space. -/
def State.canEnter (s : State) (n : Byte) : Bool :=
  s.canStore 5 (s.ssp - 4) .l && s.canStore 5 (s.ssp - 6) .w && s.canRead 5 (vectorAddr n) .l

/-- The state in which the entry's step 1 leaves the machine. -/
def State.raised (s : State) (level : Option (BitVec 3)) : State :=
  { s with sr := entrySr s.sr level, run := .running }

/-- The state after the frame has been pushed. -/
def State.framed (s : State) (savedPc : Long) (level : Option (BitVec 3)) : State :=
  let s1 := { s.raised level with ssp := s.ssp - 4 }.store 5 (s.ssp - 4) .l savedPc
  { s1 with ssp := s.ssp - 6 }.store 5 (s.ssp - 6) .w s.sr

/-- The state in which the handler starts. -/
def State.entered (s : State) (n : Byte) (savedPc : Long) (level : Option (BitVec 3)) : State :=
  (s.framed savedPc level).jump ((s.framed savedPc level).load 5 (vectorAddr n) .l)

/-! What the entry of a bus or address error needs and leaves (60_exceptions.md R373, R384). -/

/-- The seven-word frame and the vector fetch complete: the stack is even and takes seven words, and the vector can be
read, all in supervisor data space. -/
def State.canFrame (s : State) (e : AccessError) : Bool :=
  evenAddr s.ssp && ([2, 4, 6, 8, 10, 12, 14] : List Long).all (fun k => s.storable 5 (s.ssp - k) true) &&
    s.canRead 5 (vectorAddr e.vector) .l

/-- The cells of the frame. -/
def State.frameCells (s : State) : List Nat :=
  s.cells 5 (s.ssp - 4) .l ++ s.cells 5 (s.ssp - 8) .l ++ s.cells 5 (s.ssp - 12) .l ++ s.cells 5 (s.ssp - 14) .w

/-- What the entry of a bus or address error leaves: the frame, with the access address and the low five bits of the
access word (R/W, I/N, FC), the mode, and PC at the handler (R384). The system byte saved is that of before. -/
structure ErrorTaken (s t : State) (e : AccessError) (access : BitVec 5) (addr : Long) : Prop where
  ssp : t.ssp = s.ssp - 14
  supervisor : t.supervisor = true
  tracing : t.tracing = false
  mask : t.mask = s.mask
  run : t.run = .running
  window : t.window = .error
  trace : t.tracePending = false
  pc : t.pc = t.load 5 (vectorAddr e.vector) .l
  access : (t.load 5 t.ssp .w : Word).setWidth 5 = access
  addr : t.load 5 (t.ssp + 2) .l = addr
  saved : (t.load 5 (t.ssp + 8) .w : Word).extractLsb' 5 11 = s.sr.extractLsb' 5 11
  memory : MemoryKept s.frameCells s t

/-! The end of a run (00_scope.md R15). -/

/-- How a run ends. -/
inductive RunEnd where
  /-- (a) halted after a double bus fault: a fault state, never final -/
  | halted
  /-- (b) stopped, with nothing left that could wake it -/
  | stopped
  /-- (c) at a PC that the platform names (D19, log 29) -/
  | endPc
deriving DecidableEq, Repr

/-- The way in which a run ends in a state, if it ends there. -/
def State.runEnd (s : State) : Option RunEnd :=
  match s.run with
  | .halted => some .halted
  | .stopped => if s.inputs.isEmpty && !s.tracePending && !s.nmiPending && !decide (s.mask < s.ipl) then some .stopped
    else none
  | .running => if s.pc ∈ s.platform.endPcs then some .endPc else none

/-- A run of at most so many steps, to the state where it ends. -/
def State.runToEnd : Nat → State → Host.Outcome State Fault Refusal
  | 0, s => .next s
  | n + 1, s =>
    if s.runEnd.isSome then .next s
    else match step s with
      | .next t => State.runToEnd n t
      | o => o

end Sys2Proof.Machine
end

