-- ==== Sys2Proof/Certificates/Slice0/Obligations.lean ====
section
/-! DEFINITION. The statements for the provers: what the rules of the spec say an instruction or the machine does.
`readEa`, `eaAddr`, `fetchImm` and `fetch16` are the meanings' own operand operations: a hypothesis that one of them
answers says that the operand can be evaluated in that state, and names its value and the state that the evaluation
leaves; what they answer, and when, is stated by the statements on operands below. -/

open Sys2Proof Sys2Proof.Machine

/-! ## Encoding -/

/-- Every well-formed instruction's operation word decodes to it (30_encoding.md R100, R103, R108, R136). -/
def Obligations.DecodeInvertsEncode : Prop :=
  ∀ i : Instr, i.wf = true → ∃ w, encode i = [w] ∧ decode w = .ok i

/-- The words the decoder accepts are the encodings of well-formed instructions: no two words are read as one
instruction, and no other word falls through to one (30_encoding.md R124, R126, R150). -/
def Obligations.DecodedInstructionIsWellFormed : Prop :=
  ∀ (w : Word) (i : Instr), decode w = .ok i → i.wf = true ∧ encode i = [w]

/-- The brief extension word: its four fields, whatever bits 10 to 8 hold (R116, D32). -/
def Obligations.BriefExtensionIgnoresBits : Prop :=
  (∀ e : BriefExt, BriefExt.decode e.encode = e) ∧
  ∀ (e : BriefExt) (k : Fin 8), BriefExt.decode (e.encode ||| BitVec.ofNat 16 (k.val * 256)) = e

/-- Operation words printed in the spec and what they stand for. -/
def Obligations.SpecWordsDecode : Prop :=
  decode 0x3401 = .ok (.move .w (.dn 1) (.dn 2)) ∧ decode 0x22D8 = .ok (.move .l (.post 0) (.post 1)) ∧
  decode 0x4E71 = .ok .nop ∧ decode 0x4AFC = .ok .illegal ∧ decode 0x4250 = .ok (.clr .w (.ind 0)) ∧
  decode 0xE445 = .ok (.asrReg .w (.quick 2) 5) ∧ decode 0xC501 = .ok (.abcd .regs 2 1)

/-! ## Operands -/

/-- The register modes: `(An)` reads, `(An)+` steps after and `-(An)` before, by the operand size, by 2 for a byte
through A7 (R112, R113, R114, R127). -/
def Obligations.RegisterModesAddress : Prop :=
  (∀ (sz : Size) (n : RegNo) (s : State),
    eaAddr sz (.ind n) s = .ok (s.areg n) s ∧
    eaAddr sz (.post n) s = .ok (s.areg n) (s.setAreg n (s.areg n + stepOf sz n)) ∧
    eaAddr sz (.pre n) s = .ok (s.areg n - stepOf sz n) (s.setAreg n (s.areg n - stepOf sz n))) ∧
  stepOf .b spReg = 2 ∧ (∀ n, n ≠ spReg → stepOf .b n = 1) ∧ ∀ n, stepOf .w n = 2 ∧ stepOf .l n = 4

/-- The modes with one extension word: displacement, index, absolute short, and the PC-relative ones, whose base is the
address of the extension word (R115, R116, R117, R118, R119). -/
def Obligations.ExtensionModesAddress : Prop :=
  ∀ (sz : Size) (n : RegNo) (s : State), s.canFetch = true → s.freshPc = true →
    let w := s.nextWord
    let e := BriefExt.decode w
    eaAddr sz (.disp n) s = .ok (s.areg n + w.signExtend 32) s.consumed ∧
    eaAddr sz (.index n) s = .ok (s.areg n + (e.disp.signExtend 32 + s.indexValue e)) s.consumed ∧
    eaAddr sz .absW s = .ok (w.signExtend 32) s.consumed ∧
    eaAddr sz .pcDisp s = .ok (s.pc + w.signExtend 32) s.consumed ∧
    eaAddr sz .pcIndex s = .ok (s.pc + (e.disp.signExtend 32 + s.indexValue e)) s.consumed

/-- Absolute long addresses and long immediates take two words, high-order word first; a byte immediate is the low byte
of its word (R106, R117, R120). -/
def Obligations.ImmediatesFromStream : Prop :=
  ∀ (s : State), s.canFetch = true → s.freshPc = true →
    fetchImm .b s = .ok (s.nextWord.setWidth 8) s.consumed ∧
    fetchImm .w s = .ok s.nextWord s.consumed ∧
    (s.consumed.canFetch = true → s.consumed.freshPc = true →
      fetchImm .l s = .ok (s.nextWord ++ s.consumed.nextWord) s.consumed.consumed ∧
      ∀ sz, eaAddr sz .absL s = .ok (s.nextWord ++ s.consumed.nextWord) s.consumed.consumed)

/-- Reading an operand: a register's low part, an immediate, or memory (R110, R111, R118, R125). That the PC-relative modes
read program space is general knowledge of the spec (G15) and a parameter of the platform (log 23). That a device
supplies an open value is the model's choice (log 20). -/
def Obligations.OperandReads : Prop :=
  (∀ (sz : Size) (n : RegNo) (s : State), readEa sz (.dn n) s = .ok (lowPart sz (s.dreg n)) s) ∧
  (∀ (sz : Size) (n : RegNo) (s : State), sz ≠ .b → readEa sz (.an n) s = .ok (lowPart sz (s.areg n)) s) ∧
  (∀ (sz : Size) (s : State), readEa sz .imm s = fetchImm sz s) ∧
  (∀ (sz : Size) (ea : Ea) (s s1 : State) (a : Long), ea.isMemory = true → ea ≠ .imm → eaAddr sz ea s = .ok a s1 →
    s1.canRead (s1.operandFc ea) a sz = true →
    readEa sz ea s = .ok (s1.load (s1.operandFc ea) a sz) s1) ∧
  (∀ (ea : Ea) (s : State), s.operandFc ea =
    if (ea = .pcDisp ∨ ea = .pcIndex) ∧ s.platform.pcRelProgram = true then s.progFc else s.dataFc) ∧
  ∀ (fc : BitVec 3) (a : Long) (s : State), s.resetIn = none →
    (s.answer (.reading fc a false) = .device → ∃ v, readSized fc a .b s = .ok v { s with draws := s.draws + 1 }) ∧
    (evenAddr a = true → s.answer (.reading fc a true) = .device →
      ∃ v, readSized fc a .w s = .ok v { s with draws := s.draws + 1 })

/-- What a store leaves a load finds: the same size at the same address, in memory that stores and reads back, and
every byte outside the stored cells is unchanged (20_memory.md R63, R67). -/
def Obligations.LoadAfterStore : Prop :=
  ∀ (s : State) (fc : BitVec 3) (a : Long) (sz : Size) (v : BitVec sz.bits), s.platform.memMap = [] →
    (sz ≠ .b → evenAddr a = true) →
    (s.store fc a sz v).load fc a sz = v ∧ MemoryKept (s.cells fc a sz) s (s.store fc a sz v)

/-! ## Data movement -/

/-- MOVE: the value read, the flags of the value with X kept, the destination stored; the frame (R160, R162, R163). That
the source is evaluated before the destination is decision D22; that the flags are set before the store, which shows in
nothing here but the order of the updates, is the model's choice (log 14). -/
def Obligations.MoveResult : Prop :=
  ∀ (sz : Size) (src : Ea) (s s1 : State) (v : BitVec sz.bits), readEa sz src s = .ok v s1 →
    let s2 := s1.setCcr (moveFlags s1.ccr v)
    (∀ n, exec (.move sz src (.dn n)) s = .next (s2.setDlow n sz v) ∧
      Changes [n] src.updates [] s (s2.setDlow n sz v)) ∧
    ∀ (dst : Ea) (a : Long) (s3 : State), dst.isMemAlterable = true → eaAddr sz dst s2 = .ok a s3 →
      s3.canStore s3.dataFc a sz = true →
      let t := s3.store s3.dataFc a sz v
      exec (.move sz src dst) s = .next t ∧
      Changes [] (src.updates ++ dst.updates) (s3.cells s3.dataFc a sz) s t ∧ t.ccr = moveFlags s1.ccr v

/-- MOVEQ, EXT, SWAP and the three EXG forms: registers only (R165, R178, R209, 43_shift_rotate.md R264). -/
def Obligations.RegisterOnlyResult : Prop :=
  ∀ (s : State) (x y : RegNo),
    (∀ data : Byte,
      let v : Long := data.signExtend 32
      exec (.moveq data x) s = .next ((s.setCcr (moveFlags s.ccr v)).setDreg x v)) ∧
    (let v : Word := ((s.dreg x).setWidth 8).signExtend 16
     exec (.ext .w x) s = .next ((s.setCcr (moveFlags s.ccr v)).setDlow x .w v)) ∧
    (let v : Long := ((s.dreg x).setWidth 16).signExtend 32
     exec (.ext .l x) s = .next ((s.setCcr (moveFlags s.ccr v)).setDreg x v)) ∧
    (let v : Long := (s.dreg x).extractLsb' 0 16 ++ (s.dreg x).extractLsb' 16 16
     exec (.swap x) s = .next ((s.setCcr (moveFlags s.ccr v)).setDreg x v)) ∧
    (∃ t, exec (.exgDD x y) s = .next t ∧ t.dreg x = s.dreg y ∧ t.dreg y = s.dreg x ∧ t.sr = s.sr ∧
      Changes [x, y] [] [] s t) ∧
    (∃ t, exec (.exgAA x y) s = .next t ∧ t.areg x = s.areg y ∧ t.areg y = s.areg x ∧ t.sr = s.sr ∧
      Changes [] [x, y] [] s t) ∧
    (∃ t, exec (.exgDA x y) s = .next t ∧ t.dreg x = s.areg y ∧ t.areg y = s.dreg x ∧ t.sr = s.sr ∧
      Changes [x] [y] [] s t) ∧
    ∀ (f : Ccr) (v : Long), Changes [x] [] [] s ((s.setCcr f).setDreg x v) ∧
      ∀ w : Word, Changes [x] [] [] s ((s.setCcr f).setDlow x .w w)

/-- MOVEM to memory: the j-th listed register at the address plus j operand sizes, lowest register first; nothing else
changes (R166, R167). -/
def Obligations.MovemStoresRegisters : Prop :=
  ∀ (sz : Size) (ea : Ea) (s s0 s1 : State) (mask : Word) (a : Long), fetch16 s = .ok mask s0 →
    eaAddr sz ea s0 = .ok a s1 →
    let rs := (movemOrder.filter fun i => mask.getLsbD i.val).zipIdx
    let addr := fun j : Nat => a + BitVec.ofNat 32 (j * sz.bytes)
    (∀ p ∈ rs, s1.canStore s1.dataFc (addr p.2) sz = true) →
    let t := rs.foldl (fun t p => t.store s1.dataFc (addr p.2) sz (lowPart sz (s1.rreg p.1))) s1
    exec (.movemToMem sz ea) s = .next t ∧ t.sr = s.sr ∧
    Changes [] ea.updates (rs.flatMap fun p => s1.cells s1.dataFc (addr p.2) sz) s t

/-- MOVEM to memory with predecrement: mask bit i names R[15 − i], the j-th goes j + 1 operand sizes below the start,
and the register, whose stored value is the old one, ends at the last address (R168). -/
def Obligations.MovemPredecrementStores : Prop :=
  ∀ (sz : Size) (an : RegNo) (s s0 : State) (mask : Word), fetch16 s = .ok mask s0 →
    let rs := (movemOrder.filter fun i => mask.getLsbD i.val).zipIdx
    let addr := fun j : Nat => s0.areg an - BitVec.ofNat 32 ((j + 1) * sz.bytes)
    (∀ p ∈ rs, s0.canStore s0.dataFc (addr p.2) sz = true) →
    let t := (rs.foldl (fun t p => t.store s0.dataFc (addr p.2) sz (lowPart sz (s0.rreg (Fin.rev p.1)))) s0).setAreg an
      (s0.areg an - BitVec.ofNat 32 (rs.length * sz.bytes))
    exec (.movemPredec sz an) s = .next t ∧ t.sr = s.sr ∧
    Changes [] [an] (rs.flatMap fun p => s0.cells s0.dataFc (addr p.2) sz) s t

/-- MOVEM to registers: each listed register takes all 32 bits, words sign-extended; with `(An)+` the final address
overwrites the register; every other register, SR and memory are unchanged (R169). -/
def Obligations.MovemLoadsRegisters : Prop :=
  ∀ (sz : Size) (ea : Ea) (s s0 s1 : State) (mask : Word) (a : Long), fetch16 s = .ok mask s0 →
    let rs := (movemOrder.filter fun i => mask.getLsbD i.val).zipIdx
    let addr := fun j : Nat => a + BitVec.ofNat 32 (j * sz.bytes)
    let loaded := fun (u : State) (fc : BitVec 3) =>
      rs.foldl (fun t p => t.setRreg p.1 (extendOperand sz (u.load fc (addr p.2) sz))) u
    let others := fun (t : State) (keep : Fin 16 → Prop) => t.sr = s.sr ∧ SystemKept s t ∧ MemoryKept [] s t ∧
      ∀ i : Fin 16, mask.getLsbD i.val = false → keep i → t.rreg i = s.rreg i
    (ea.isControl = true → eaAddr sz ea s0 = .ok a s1 → (∀ p ∈ rs, s1.canRead (s1.operandFc ea) (addr p.2) sz = true) →
      exec (.movemToRegs sz ea) s = .next (loaded s1 (s1.operandFc ea)) ∧
      others (loaded s1 (s1.operandFc ea)) fun _ => True) ∧
    ∀ n, a = s0.areg n → (∀ p ∈ rs, s0.canRead s0.dataFc (addr p.2) sz = true) →
      let t := (loaded s0 s0.dataFc).setAreg n (addr rs.length)
      exec (.movemToRegs sz (.post n)) s = .next t ∧ t.areg n = addr rs.length ∧
      others t fun i => i.val ≠ 8 + n.val

/-- MOVEP: alternate bytes, high-order byte first, any alignment; the address register and the flags are unchanged
(R175). -/
def Obligations.MovepAlternateBytes : Prop :=
  ∀ (dn an : RegNo) (s s1 : State) (w : Word), fetch16 s = .ok w s1 →
    let a := s1.areg an + w.signExtend 32
    let fc := s1.dataFc
    let r := s1.dreg dn
    let put := fun (u : State) (k : Long) (lo : Nat) => u.store fc (a + k) .b (r.extractLsb' lo 8)
    (s1.canRead fc a .b = true → s1.canRead fc (a + 2) .b = true →
      let v : Long := r.extractLsb' 16 16 ++ (s1.byteAt fc a ++ s1.byteAt fc (a + 2))
      exec (.movep false .w dn an) s = .next (s1.setDreg dn v) ∧ Changes [dn] [] [] s (s1.setDreg dn v)) ∧
    (s1.canRead fc a .b = true → s1.canRead fc (a + 2) .b = true → s1.canRead fc (a + 4) .b = true →
      s1.canRead fc (a + 6) .b = true →
      let v : Long := (s1.byteAt fc a ++ s1.byteAt fc (a + 2)) ++ (s1.byteAt fc (a + 4) ++ s1.byteAt fc (a + 6))
      exec (.movep false .l dn an) s = .next (s1.setDreg dn v) ∧ Changes [dn] [] [] s (s1.setDreg dn v)) ∧
    (s1.canStore fc a .b = true → s1.canStore fc (a + 2) .b = true →
      let t := put (put s1 0 8) 2 0
      exec (.movep true .w dn an) s = .next t ∧ t.sr = s.sr ∧
      Changes [] [] (s1.cells fc a .b ++ s1.cells fc (a + 2) .b) s t) ∧
    (s1.canStore fc a .b = true → s1.canStore fc (a + 2) .b = true → s1.canStore fc (a + 4) .b = true →
      s1.canStore fc (a + 6) .b = true →
      let t := put (put (put (put s1 0 24) 2 16) 4 8) 6 0
      exec (.movep true .l dn an) s = .next t ∧ t.sr = s.sr ∧
      Changes [] [] (s1.cells fc a .b ++ s1.cells fc (a + 2) .b ++ s1.cells fc (a + 4) .b ++ s1.cells fc (a + 6) .b) s t)

/-- PEA, JSR, BSR push a long word on the active stack, with the address computed before the push (R177, R297, R294). -/
def Obligations.PushingInstructions : Prop :=
  ∀ (s s1 : State) (a : Long),
    let sp := s1.areg spReg - 4
    let fc := s1.dataFc
    let pushed := fun v => (s1.setAreg spReg sp).store fc sp .l v
    s1.canStore fc sp .l = true →
    (∀ ea : Ea, ea.isControl = true → eaAddr .l ea s = .ok a s1 →
      exec (.pea ea) s = .next (pushed a) ∧ exec (.jsr ea) s = .next ((pushed s1.pc).jump a) ∧
      Changes [] [spReg] (s1.cells fc sp .l) s (pushed a) ∧
      Changes [] [spReg] (s1.cells fc sp .l) s ((pushed s1.pc).jump a) ∧
      (pushed a).sr = s.sr ∧ ((pushed s1.pc).jump a).sr = s.sr) ∧
    ∀ disp : Byte, branchTarget disp s = .ok a s1 →
      exec (.bsr disp) s = .next ((pushed s1.pc).jump a) ∧
      Changes [] [spReg] (s1.cells fc sp .l) s ((pushed s1.pc).jump a) ∧ ((pushed s1.pc).jump a).sr = s.sr

/-- LINK and UNLK, in the order the rules print. That A7 as the frame register follows that order too is the model's
choice (log 25; R179, R180). -/
def Obligations.LinkAndUnlink : Prop :=
  (∀ (an : RegNo) (s s1 : State) (w : Word), fetch16 s = .ok w s1 →
    let s2 := s1.setAreg spReg (s1.areg spReg - 4)
    let sp := s1.areg spReg - 4
    s1.canStore s1.dataFc sp .l = true →
    let s3 := (s2.store s1.dataFc sp .l (s2.areg an)).setAreg an sp
    let t := s3.setAreg spReg (s3.areg spReg + w.signExtend 32)
    exec (.link an) s = .next t ∧ Changes [] [an, spReg] (s1.cells s1.dataFc sp .l) s t ∧ t.sr = s.sr) ∧
  ∀ (an : RegNo) (s : State), s.canRead s.dataFc (s.areg an) .l = true →
    let s2 := (s.setAreg spReg (s.areg an)).setAreg an (s.load s.dataFc (s.areg an) .l)
    let t := s2.setAreg spReg (s2.areg spReg + 4)
    exec (.unlk an) s = .next t ∧ Changes [] [an, spReg] [] s t ∧ t.sr = s.sr

/-- MOVEA, ADDA, SUBA and LEA write all 32 bits of an address register and no flag (R164, R192, R198, R176). -/
def Obligations.AddressRegisterResult : Prop :=
  (∀ (sz : Size) (an : RegNo) (ea : Ea) (s s1 : State) (v : BitVec sz.bits), readEa sz ea s = .ok v s1 →
    exec (.movea sz ea an) s = .next (s1.setAreg an (extendOperand sz v)) ∧
    exec (.adda sz an ea) s = .next (s1.setAreg an (s1.areg an + extendOperand sz v)) ∧
    exec (.suba sz an ea) s = .next (s1.setAreg an (s1.areg an - extendOperand sz v)) ∧
    ∀ r, Changes [] (an :: ea.updates) [] s (s1.setAreg an r) ∧ (s1.setAreg an r).sr = s.sr) ∧
  ∀ (an : RegNo) (ea : Ea) (s s1 : State) (a : Long), ea.isControl = true → eaAddr .l ea s = .ok a s1 →
    exec (.lea an ea) s = .next (s1.setAreg an a) ∧ Changes [] [an] [] s (s1.setAreg an a) ∧
    (s1.setAreg an a).sr = s.sr

/-! ## Integer arithmetic and logic -/

/-- ADD, SUB, AND, OR to a data register: result, flags, frame (R191, R197, 42_logical.md R231, R232). -/
def Obligations.ToRegisterResult : Prop :=
  ∀ (sz : Size) (dn : RegNo) (ea : Ea) (s s1 : State) (v : BitVec sz.bits), readEa sz ea s = .ok v s1 →
    let d := lowPart sz (s1.dreg dn)
    let sum := aluAdd d v false
    let dif := aluSub d v false
    let t := fun (f : Ccr) (r : BitVec sz.bits) => (s1.setCcr f).setDlow dn sz r
    exec (.addToDn sz dn ea) s = .next (t (arithFlags sum) sum.r) ∧
    exec (.subToDn sz dn ea) s = .next (t (arithFlags dif) dif.r) ∧
    exec (.andToDn sz dn ea) s = .next (t (moveFlags s1.ccr (d &&& v)) (d &&& v)) ∧
    exec (.orToDn sz dn ea) s = .next (t (moveFlags s1.ccr (d ||| v)) (d ||| v)) ∧
    ∀ f r, Changes [dn] ea.updates [] s (t f r)

/-- ADD, SUB, AND, OR, EOR to memory, and EOR to a register (R191, R197, 42_logical.md R231, R232, R233). -/
def Obligations.ToMemoryResult : Prop :=
  (∀ (sz : Size) (dn : RegNo) (ea : Ea) (s s1 : State) (a : Long), ea.isMemAlterable = true →
    eaAddr sz ea s = .ok a s1 → s1.canRead s1.dataFc a sz = true → s1.canStore s1.dataFc a sz = true →
    let d := s1.load s1.dataFc a sz
    let v := lowPart sz (s1.dreg dn)
    let sum := aluAdd d v false
    let dif := aluSub d v false
    let t := fun (f : Ccr) (r : BitVec sz.bits) => (s1.setCcr f).store s1.dataFc a sz r
    exec (.addToEa sz dn ea) s = .next (t (arithFlags sum) sum.r) ∧
    exec (.subToEa sz dn ea) s = .next (t (arithFlags dif) dif.r) ∧
    exec (.andToEa sz dn ea) s = .next (t (moveFlags s1.ccr (d &&& v)) (d &&& v)) ∧
    exec (.orToEa sz dn ea) s = .next (t (moveFlags s1.ccr (d ||| v)) (d ||| v)) ∧
    exec (.eor sz dn ea) s = .next (t (moveFlags s1.ccr (d ^^^ v)) (d ^^^ v)) ∧
    ∀ f r, Changes [] ea.updates (s1.cells s1.dataFc a sz) s (t f r)) ∧
  ∀ (sz : Size) (dn n : RegNo) (s : State),
    let r := lowPart sz (s.dreg n) ^^^ lowPart sz (s.dreg dn)
    exec (.eor sz dn (.dn n)) s = .next ((s.setCcr (moveFlags s.ccr r)).setDlow n sz r) ∧
    Changes [n] [] [] s ((s.setCcr (moveFlags s.ccr r)).setDlow n sz r)

/-- ADDI, SUBI, ANDI, ORI, EORI on a register and on memory: the immediate comes first (R193, R199, 42_logical.md R234,
R235, R236). -/
def Obligations.ImmediateResult : Prop :=
  ∀ (sz : Size) (s s0 : State) (v : BitVec sz.bits), fetchImm sz s = .ok v s0 →
    (∀ n : RegNo, let d := lowPart sz (s0.dreg n)
      let sum := aluAdd d v false
      let dif := aluSub d v false
      let t := fun (f : Ccr) (r : BitVec sz.bits) => (s0.setCcr f).setDlow n sz r
      exec (.addi sz (.dn n)) s = .next (t (arithFlags sum) sum.r) ∧
      exec (.subi sz (.dn n)) s = .next (t (arithFlags dif) dif.r) ∧
      exec (.andi sz (.dn n)) s = .next (t (moveFlags s0.ccr (d &&& v)) (d &&& v)) ∧
      exec (.ori sz (.dn n)) s = .next (t (moveFlags s0.ccr (d ||| v)) (d ||| v)) ∧
      exec (.eori sz (.dn n)) s = .next (t (moveFlags s0.ccr (d ^^^ v)) (d ^^^ v)) ∧
      ∀ f r, Changes [n] [] [] s (t f r)) ∧
    ∀ (ea : Ea) (s1 : State) (a : Long), ea.isMemAlterable = true → eaAddr sz ea s0 = .ok a s1 →
      s1.canRead s1.dataFc a sz = true → s1.canStore s1.dataFc a sz = true →
      let d := s1.load s1.dataFc a sz
      let sum := aluAdd d v false
      let dif := aluSub d v false
      let t := fun (f : Ccr) (r : BitVec sz.bits) => (s1.setCcr f).store s1.dataFc a sz r
      exec (.addi sz ea) s = .next (t (arithFlags sum) sum.r) ∧
      exec (.subi sz ea) s = .next (t (arithFlags dif) dif.r) ∧
      exec (.andi sz ea) s = .next (t (moveFlags s1.ccr (d &&& v)) (d &&& v)) ∧
      exec (.ori sz ea) s = .next (t (moveFlags s1.ccr (d ||| v)) (d ||| v)) ∧
      exec (.eori sz ea) s = .next (t (moveFlags s1.ccr (d ^^^ v)) (d ^^^ v)) ∧
      ∀ f r, Changes [] ea.updates (s1.cells s1.dataFc a sz) s (t f r)

/-- ADDQ and SUBQ: 1 to 8; on an address register all 32 bits and no flag (R194, R200). -/
def Obligations.QuickResult : Prop :=
  ∀ (sz : Size) (q : RegNo) (s : State),
    let k := BitVec.ofNat 32 (quick q)
    let v := BitVec.ofNat sz.bits (quick q)
    (∀ n, let sum := aluAdd (lowPart sz (s.dreg n)) v false
      let dif := aluSub (lowPart sz (s.dreg n)) v false
      let t := fun (f : Ccr) (r : BitVec sz.bits) => (s.setCcr f).setDlow n sz r
      exec (.addq sz q (.dn n)) s = .next (t (arithFlags sum) sum.r) ∧
      exec (.subq sz q (.dn n)) s = .next (t (arithFlags dif) dif.r) ∧ ∀ f r, Changes [n] [] [] s (t f r)) ∧
    (∀ n, sz ≠ .b → exec (.addq sz q (.an n)) s = .next (s.setAreg n (s.areg n + k)) ∧
      exec (.subq sz q (.an n)) s = .next (s.setAreg n (s.areg n - k)) ∧
      ∀ r, Changes [] [n] [] s (s.setAreg n r) ∧ (s.setAreg n r).sr = s.sr) ∧
    (∀ (ea : Ea) (s1 : State) (a : Long), ea.isMemAlterable = true → eaAddr sz ea s = .ok a s1 →
      s1.canRead s1.dataFc a sz = true → s1.canStore s1.dataFc a sz = true →
      let sum := aluAdd (s1.load s1.dataFc a sz) v false
      let dif := aluSub (s1.load s1.dataFc a sz) v false
      let t := fun (f : Ccr) (r : BitVec sz.bits) => (s1.setCcr f).store s1.dataFc a sz r
      exec (.addq sz q ea) s = .next (t (arithFlags sum) sum.r) ∧
      exec (.subq sz q ea) s = .next (t (arithFlags dif) dif.r) ∧
      ∀ f r, Changes [] ea.updates (s1.cells s1.dataFc a sz) s (t f r)) ∧
    1 ≤ quick q ∧ quick q ≤ 8 ∧ quick q % 8 = q.val

/-- ADDX and SUBX: with X, Z only cleared; in memory the source is read first and both registers step down (R195, R196,
R201). -/
def Obligations.ExtendedResult : Prop :=
  (∀ (sz : Size) (x y : RegNo) (s : State),
    let sum := aluAdd (lowPart sz (s.dreg x)) (lowPart sz (s.dreg y)) s.ccr.x
    let dif := aluSub (lowPart sz (s.dreg x)) (lowPart sz (s.dreg y)) s.ccr.x
    let t := fun (f : Ccr) (r : BitVec sz.bits) => (s.setCcr f).setDlow x sz r
    exec (.addx sz .regs x y) s = .next (t (stickyFlags s.ccr sum) sum.r) ∧
    exec (.subx sz .regs x y) s = .next (t (stickyFlags s.ccr dif) dif.r) ∧ ∀ f r, Changes [x] [] [] s (t f r)) ∧
  ∀ (sz : Size) (x y : RegNo) (s : State),
    let s1 := s.setAreg y (s.areg y - stepOf sz y)
    let s2 := s1.setAreg x (s1.areg x - stepOf sz x)
    let ay := s1.areg y
    let ax := s2.areg x
    let fc := s.dataFc
    s.canRead fc ay sz = true → s.canRead fc ax sz = true → s.canStore fc ax sz = true →
    let sum := aluAdd (s.load fc ax sz) (s.load fc ay sz) s.ccr.x
    let dif := aluSub (s.load fc ax sz) (s.load fc ay sz) s.ccr.x
    let t := fun (f : Ccr) (r : BitVec sz.bits) => (s2.setCcr f).store fc ax sz r
    exec (.addx sz .mem x y) s = .next (t (stickyFlags s.ccr sum) sum.r) ∧
    exec (.subx sz .mem x y) s = .next (t (stickyFlags s.ccr dif) dif.r) ∧
    ∀ f r, Changes [] [x, y] (s.cells fc ax sz) s (t f r)

/-- NEG, NEGX, NOT on a register and on memory (R202, R203, 42_logical.md R237). -/
def Obligations.UnaryResult : Prop :=
  (∀ (sz : Size) (n : RegNo) (s : State),
    let d := lowPart sz (s.dreg n)
    let neg := aluSub 0 d false
    let negx := aluSub 0 d s.ccr.x
    let t := fun (f : Ccr) (r : BitVec sz.bits) => (s.setCcr f).setDlow n sz r
    exec (.neg sz (.dn n)) s = .next (t (arithFlags neg) neg.r) ∧
    exec (.negx sz (.dn n)) s = .next (t (stickyFlags s.ccr negx) negx.r) ∧
    exec (.not sz (.dn n)) s = .next (t (moveFlags s.ccr (~~~d)) (~~~d)) ∧ ∀ f r, Changes [n] [] [] s (t f r)) ∧
  ∀ (sz : Size) (ea : Ea) (s s1 : State) (a : Long), ea.isMemAlterable = true → eaAddr sz ea s = .ok a s1 →
    s1.canRead s1.dataFc a sz = true → s1.canStore s1.dataFc a sz = true →
    let d := s1.load s1.dataFc a sz
    let neg := aluSub 0 d false
    let negx := aluSub 0 d s1.ccr.x
    let t := fun (f : Ccr) (r : BitVec sz.bits) => (s1.setCcr f).store s1.dataFc a sz r
    exec (.neg sz ea) s = .next (t (arithFlags neg) neg.r) ∧
    exec (.negx sz ea) s = .next (t (stickyFlags s1.ccr negx) negx.r) ∧
    exec (.not sz ea) s = .next (t (moveFlags s1.ccr (~~~d)) (~~~d)) ∧
    ∀ f r, Changes [] ea.updates (s1.cells s1.dataFc a sz) s (t f r)

/-- CLR, Scc and MOVE from SR: the value written, the flags, the frame (R204, 42_logical.md R239, 47_system_control.md
R333). That the operand is not read, and so need not be readable, is stated by no source: it is what the spec's rules
choose and the model follows (log 23). -/
def Obligations.WriteOnlyResult : Prop :=
  ∀ s : State,
    let cleared := s.setCcr { s.ccr with n := false, z := true, v := false, c := false }
    let truth := fun c : Cond => if condHolds c s.ccr then (0xFF : Byte) else 0
    (∀ (sz : Size) (n : RegNo), exec (.clr sz (.dn n)) s = .next (cleared.setDlow n sz 0) ∧
      Changes [n] [] [] s (cleared.setDlow n sz 0)) ∧
    (∀ (c : Cond) (n : RegNo), exec (.scc c (.dn n)) s = .next (s.setDlow n .b (truth c)) ∧
      Changes [n] [] [] s (s.setDlow n .b (truth c))) ∧
    (∀ n : RegNo, exec (.moveFromSr (.dn n)) s = .next (s.setDlow n .w s.sr) ∧
      Changes [n] [] [] s (s.setDlow n .w s.sr)) ∧
    (∀ (sz : Size) (ea : Ea) (s1 : State) (a : Long), ea.isMemAlterable = true → eaAddr sz ea cleared = .ok a s1 →
      s1.canStore s1.dataFc a sz = true →
      exec (.clr sz ea) s = .next (s1.store s1.dataFc a sz 0) ∧
      Changes [] ea.updates (s1.cells s1.dataFc a sz) s (s1.store s1.dataFc a sz 0)) ∧
    (∀ (c : Cond) (ea : Ea) (s1 : State) (a : Long), ea.isMemAlterable = true → eaAddr .b ea s = .ok a s1 →
      s1.canStore s1.dataFc a .b = true →
      let t := s1.store s1.dataFc a .b (truth c)
      exec (.scc c ea) s = .next t ∧ Changes [] ea.updates (s1.cells s1.dataFc a .b) s t ∧ t.sr = s.sr) ∧
    ∀ (ea : Ea) (s1 : State) (a : Long), ea.isMemAlterable = true → eaAddr .w ea s = .ok a s1 →
      s1.canStore s1.dataFc a .w = true →
      let t := s1.store s1.dataFc a .w s.sr
      exec (.moveFromSr ea) s = .next t ∧ Changes [] ea.updates (s1.cells s1.dataFc a .w) s t ∧ t.sr = s.sr

/-- CMP, CMPA, CMPI, CMPM and TST set flags and store nothing; X is kept (R205, R206, R207, R208, 42_logical.md R238). -/
def Obligations.CompareResult : Prop :=
  (∀ (sz : Size) (n : RegNo) (ea : Ea) (s s1 : State) (v : BitVec sz.bits), readEa sz ea s = .ok v s1 →
    exec (.cmp sz n ea) s = .next (s1.setCcr (compareFlags s1.ccr (aluSub (lowPart sz (s1.dreg n)) v false))) ∧
    exec (.cmpa sz n ea) s = .next (s1.setCcr (compareFlags s1.ccr (aluSub (s1.areg n) (extendOperand sz v) false))) ∧
    exec (.tst sz ea) s = .next (s1.setCcr (moveFlags s1.ccr v)) ∧
    ∀ f, Changes [] ea.updates [] s (s1.setCcr f)) ∧
  (∀ (sz : Size) (ea : Ea) (s s0 s1 : State) (v d : BitVec sz.bits), fetchImm sz s = .ok v s0 →
    readEa sz ea s0 = .ok d s1 →
    exec (.cmpi sz ea) s = .next (s1.setCcr (compareFlags s1.ccr (aluSub d v false))) ∧
    ∀ f, Changes [] ea.updates [] s (s1.setCcr f)) ∧
  ∀ (sz : Size) (x y : RegNo) (s : State),
    let s1 := s.setAreg y (s.areg y + stepOf sz y)
    let s2 := s1.setAreg x (s1.areg x + stepOf sz x)
    s.canRead s.dataFc (s.areg y) sz = true → s.canRead s.dataFc (s1.areg x) sz = true →
    let o := aluSub (s.load s.dataFc (s1.areg x) sz) (s.load s.dataFc (s.areg y) sz) false
    exec (.cmpm sz x y) s = .next (s2.setCcr (compareFlags s.ccr o)) ∧
    ∀ f, Changes [] [x, y] [] s (s2.setCcr f)

/-- MULU and MULS: the 32-bit product of the words, which always fits, with the flags of a move (R210, R211). -/
def Obligations.MultiplyResult : Prop :=
  ∀ (dn : RegNo) (ea : Ea) (s s1 : State) (v : Word), readEa .w ea s = .ok v s1 →
    ∃ p q : Long, p.toNat = (lowPart .w (s1.dreg dn)).toNat * v.toNat ∧
      q.toInt = (lowPart .w (s1.dreg dn)).toInt * v.toInt ∧
      exec (.mulu dn ea) s = .next ((s1.setCcr (moveFlags s1.ccr p)).setDreg dn p) ∧
      exec (.muls dn ea) s = .next ((s1.setCcr (moveFlags s1.ccr q)).setDreg dn q) ∧
      ∀ f r, Changes [dn] ea.updates [] s ((s1.setCcr f).setDreg dn r)

/-- DIVU and DIVS by a divisor other than zero: quotient in the low word, remainder in the high word; where the quotient
does not fit, V is set, C clear, the register unchanged, N and Z open (R213, R214, R215). -/
def Obligations.DivideResult : Prop :=
  ∀ (dn : RegNo) (ea : Ea) (s s1 : State) (v : Word), readEa .w ea s = .ok v s1 → v ≠ 0 →
    let d := s1.dreg dn
    let finished := fun q r : Word => (s1.setCcr (moveFlags s1.ccr q)).setDreg dn (r ++ q)
    let overflowed := fun n z : Bool =>
      { s1 with draws := s1.draws + 1 }.setCcr { x := s1.ccr.x, n := n, z := z, v := true, c := false }
    (d.toNat / v.toNat ≤ 0xFFFF → ∃ q r : Word, q.toNat = d.toNat / v.toNat ∧ r.toNat = d.toNat % v.toNat ∧
      exec (.divu dn ea) s = .next (finished q r)) ∧
    (0xFFFF < d.toNat / v.toNat → ∃ n z, exec (.divu dn ea) s = .next (overflowed n z)) ∧
    (-32768 ≤ d.toInt.tdiv v.toInt → d.toInt.tdiv v.toInt ≤ 32767 →
      ∃ q r : Word, q.toInt = d.toInt.tdiv v.toInt ∧ r.toInt = d.toInt.tmod v.toInt ∧
      exec (.divs dn ea) s = .next (finished q r)) ∧
    (d.toInt.tdiv v.toInt < -32768 ∨ 32767 < d.toInt.tdiv v.toInt → ∃ n z, exec (.divs dn ea) s = .next (overflowed n z)) ∧
    (∀ q r, Changes [dn] ea.updates [] s (finished q r)) ∧ ∀ n z, Changes [] ea.updates [] s (overflowed n z)

/-- A zero divisor: C clear, X kept, N, Z and V open, the register unchanged, vector 5 with the address of the next
instruction (R212, 60_exceptions.md R382). -/
def Obligations.DivideByZeroTraps : Prop :=
  ∀ (dn : RegNo) (ea : Ea) (s s1 : State), readEa .w ea s = .ok 0 s1 → s1.canEnter 5 = true →
    ∃ n z v, let s2 := { s1 with draws := s1.draws + 1 }.setCcr { x := s1.ccr.x, n := n, z := z, v := v, c := false }
      exec (.divu dn ea) s = .next (s2.entered 5 s1.pc none) ∧
      exec (.divs dn ea) s = .next (s2.entered 5 s1.pc none) ∧
      (s2.entered 5 s1.pc none).d = s.d

/-- The bit formulas of V and C agree with the arithmetic definitions of Add and Sub (R190). -/
def Obligations.CarryOverflowFormulas : Prop :=
  ∀ (sz : Size) (d v : BitVec sz.bits) (x : Bool),
    let a := aluAdd d v x
    let b := aluSub d v x
    a.v = ((v.msb && d.msb && !a.r.msb) || (!v.msb && !d.msb && a.r.msb)) ∧
    a.c = ((v.msb && d.msb) || (!a.r.msb && d.msb) || (v.msb && !a.r.msb)) ∧
    b.v = ((!v.msb && d.msb && !b.r.msb) || (v.msb && !d.msb && b.r.msb)) ∧
    b.c = ((v.msb && !d.msb) || (b.r.msb && !d.msb) || (v.msb && b.r.msb))

/-- The sixteen conditions (30_encoding.md R140): after a comparison of d with v ten of them read as d relative to v, signed
and unsigned (R205); the other six are single flags, true and false, for all flags. -/
def Obligations.ConditionsAfterCompare : Prop :=
  ∀ (sz : Size) (d v : BitVec sz.bits) (f : Ccr),
    let c := compareFlags f (aluSub d v false)
    condHolds .eq c = decide (d = v) ∧ condHolds .ne c = decide (d ≠ v) ∧
    condHolds .gt c = decide (v.toInt < d.toInt) ∧ condHolds .ge c = decide (v.toInt ≤ d.toInt) ∧
    condHolds .lt c = decide (d.toInt < v.toInt) ∧ condHolds .le c = decide (d.toInt ≤ v.toInt) ∧
    condHolds .hi c = decide (v.toNat < d.toNat) ∧ condHolds .cc c = decide (v.toNat ≤ d.toNat) ∧
    condHolds .cs c = decide (d.toNat < v.toNat) ∧ condHolds .ls c = decide (d.toNat ≤ v.toNat) ∧
    condHolds .vc f = !f.v ∧ condHolds .vs f = f.v ∧ condHolds .pl f = !f.n ∧ condHolds .mi f = f.n ∧
    condHolds .t f = true ∧ condHolds .f f = false

/-! ## Shifts, bits, decimal arithmetic, TAS -/

/-- The register shifts and rotates: the low part of the register, five flags, frame, and the count: 1 to 8 in the
instruction, a register's modulo 64 (43_shift_rotate.md R251, R253, R254). That 0 is a count, with the flags of
`ShiftClosedForms`, is decision D10, and the modulus is general knowledge of the spec (G10, log 23). -/
def Obligations.RegisterShiftResult : Prop :=
  ∀ (sz : Size) (cnt : ShiftCount) (dn : RegNo) (s : State),
    let o := fun op => shiftRun op (s.shiftCount cnt) (lowPart sz (s.dreg dn)) s.ccr.x
    let t := fun op => (s.setCcr (shiftFlags (o op))).setDlow dn sz (o op).val
    exec (.aslReg sz cnt dn) s = .next (t .asl) ∧ exec (.asrReg sz cnt dn) s = .next (t .asr) ∧
    exec (.lslReg sz cnt dn) s = .next (t .lsl) ∧ exec (.lsrReg sz cnt dn) s = .next (t .lsr) ∧
    exec (.rolReg sz cnt dn) s = .next (t .rol) ∧ exec (.rorReg sz cnt dn) s = .next (t .ror) ∧
    exec (.roxlReg sz cnt dn) s = .next (t .roxl) ∧ exec (.roxrReg sz cnt dn) s = .next (t .roxr) ∧
    (∀ op, Changes [dn] [] [] s (t op)) ∧
    (∀ q : RegNo, s.shiftCount (.quick q) = if q = 0 then 8 else q.val) ∧
    ∀ n : RegNo, s.shiftCount (.reg n) = (s.dreg n).toNat % 64

/-- The memory shifts and rotates: a word, one bit (43_shift_rotate.md R252). -/
def Obligations.MemoryShiftResult : Prop :=
  ∀ (ea : Ea) (s s1 : State) (a : Long), ea.isMemAlterable = true → eaAddr .w ea s = .ok a s1 →
    s1.canRead s1.dataFc a .w = true → s1.canStore s1.dataFc a .w = true →
    let o : ShiftOp → ShiftState 16 := fun op => shiftRun op 1 (s1.load s1.dataFc a .w) s1.ccr.x
    let t := fun op => (s1.setCcr (shiftFlags (o op))).store s1.dataFc a .w (o op).val
    exec (.aslMem ea) s = .next (t .asl) ∧ exec (.asrMem ea) s = .next (t .asr) ∧
    exec (.lslMem ea) s = .next (t .lsl) ∧ exec (.lsrMem ea) s = .next (t .lsr) ∧
    exec (.rolMem ea) s = .next (t .rol) ∧ exec (.rorMem ea) s = .next (t .ror) ∧
    exec (.roxlMem ea) s = .next (t .roxl) ∧ exec (.roxrMem ea) s = .next (t .roxr) ∧
    ∀ op, Changes [] ea.updates (s1.cells s1.dataFc a .w) s (t op)

/-- The shifts and rotates in closed form, for every count: the result; C the last bit out, and X with it but for ROL and
ROR, which keep it; ROXL and ROXR the rotation of the ring of X and the operand; V clear but for ASL, whose V says that the
sign bit changed at some step (43_shift_rotate.md R254 to R262). With a count of 0, C is clear, or X for ROXL and ROXR,
and X is kept (R253, decision D10). -/
def Obligations.ShiftClosedForms : Prop :=
  ∀ (sz : Size) (k : Nat) (v : BitVec sz.bits) (x : Bool),
    (shiftRun .lsl k v x).val = v <<< k ∧ (shiftRun .asl k v x).val = v <<< k ∧
    (shiftRun .lsr k v x).val = v >>> k ∧ (shiftRun .asr k v x).val = v.sshiftRight k ∧
    (shiftRun .rol k v x).val = v.rotateLeft k ∧ (shiftRun .ror k v x).val = v.rotateRight k ∧
    (shiftRun .rol k v x).x = x ∧ (shiftRun .ror k v x).x = x ∧
    (let l := shiftRun .roxl k v x
     BitVec.ofBool l.x ++ l.val = (BitVec.ofBool x ++ v).rotateLeft k ∧ l.c = l.x) ∧
    (let r := shiftRun .roxr k v x
     BitVec.ofBool r.x ++ r.val = (BitVec.ofBool x ++ v).rotateRight k ∧ r.c = r.x) ∧
    (k = 0 → ∀ op, (shiftRun op k v x).c = (op.throughX && x) ∧ (shiftRun op k v x).x = x) ∧
    (0 < k →
      (∀ op ∈ [ShiftOp.asl, .lsl], (shiftRun op k v x).c = (v <<< (k - 1)).msb ∧
        (shiftRun op k v x).x = (shiftRun op k v x).c) ∧
      ((shiftRun .lsr k v x).c = (v >>> (k - 1)).getLsbD 0 ∧ (shiftRun .lsr k v x).x = (shiftRun .lsr k v x).c) ∧
      ((shiftRun .asr k v x).c = (v.sshiftRight (k - 1)).getLsbD 0 ∧
        (shiftRun .asr k v x).x = (shiftRun .asr k v x).c) ∧
      (shiftRun .rol k v x).c = (v.rotateLeft k).getLsbD 0 ∧ (shiftRun .ror k v x).c = (v.rotateRight k).msb) ∧
    (∀ op, op ≠ .asl → (shiftRun op k v x).v = false) ∧
    ((shiftRun .asl k v x).v = true ↔ ∃ j, j < k ∧ (v <<< j).msb ≠ (v <<< (j + 1)).msb)

/-- The bit instructions on a data register: the number modulo 32, Z the complement of the old bit, the other flags kept
(44_bit_manipulation.md R270, R271, R274 to R277). -/
def Obligations.BitOnRegisterResult : Prop :=
  ∀ (n : RegNo) (s : State),
    let z := fun (u : State) (k : Nat) => u.setCcr { u.ccr with z := !(u.dreg n).getLsbD (k % 32) }
    let t := fun (u : State) (k : Nat) (op : BitOp) => (z u k).setDreg n (op.apply (u.dreg n) (k % 32))
    (∀ m : RegNo, let k := (s.dreg m).toNat
      exec (.btstReg m (.dn n)) s = .next (z s k) ∧ exec (.bchgReg m (.dn n)) s = .next (t s k .chg) ∧
      exec (.bclrReg m (.dn n)) s = .next (t s k .clr) ∧ exec (.bsetReg m (.dn n)) s = .next (t s k .set)) ∧
    (∀ (w : Word) (s1 : State), fetch16 s = .ok w s1 → let k := w.toNat % 256
      exec (.btstImm (.dn n)) s = .next (z s1 k) ∧ exec (.bchgImm (.dn n)) s = .next (t s1 k .chg) ∧
      exec (.bclrImm (.dn n)) s = .next (t s1 k .clr) ∧ exec (.bsetImm (.dn n)) s = .next (t s1 k .set) ∧
      ∀ op, Changes [n] [] [] s (t s1 k op) ∧ Changes [] [] [] s (z s1 k)) ∧
    ∀ k op, Changes [n] [] [] s (t s k op) ∧ Changes [] [] [] s (z s k)

/-- The bit instructions on a byte of memory: the number modulo 8; BTST writes nothing and takes the PC-relative modes too
(44_bit_manipulation.md R270, R271, R274 to R277). That the dynamic form takes an immediate is general knowledge of the
spec (G13, log 23); the static form does not (log 24). -/
def Obligations.BitOnMemoryResult : Prop :=
  ∀ (ea : Ea) (s s0 s1 : State) (a : Long) (k : Nat) (dynamic : Bool),
    let z := fun (u : State) (b : Byte) => u.setCcr { u.ccr with z := !b.getLsbD (k % 8) }
    (if dynamic then s0 = s else ∃ w, fetch16 s = .ok w s0 ∧ k = w.toNat % 256) →
    (ea.isMemAlterable = true → eaAddr .b ea s0 = .ok a s1 → s1.canRead s1.dataFc a .b = true →
      s1.canStore s1.dataFc a .b = true →
      let b : Byte := s1.load s1.dataFc a .b
      let t := fun op : BitOp => (z s1 b).store s1.dataFc a .b (op.apply b (k % 8))
      (dynamic = true → ∀ m : RegNo, k = (s.dreg m).toNat → exec (.bchgReg m ea) s = .next (t .chg) ∧
        exec (.bclrReg m ea) s = .next (t .clr) ∧ exec (.bsetReg m ea) s = .next (t .set)) ∧
      (dynamic = false → exec (.bchgImm ea) s = .next (t .chg) ∧ exec (.bclrImm ea) s = .next (t .clr) ∧
        exec (.bsetImm ea) s = .next (t .set)) ∧
      ∀ op, Changes [] ea.updates (s1.cells s1.dataFc a .b) s (t op)) ∧
    ∀ b : Byte, ea.isMemory = true → readEa .b ea s0 = .ok b s1 →
      (dynamic = true → ∀ m : RegNo, k = (s.dreg m).toNat → exec (.btstReg m ea) s = .next (z s1 b)) ∧
      (dynamic = false → ea ≠ .imm → exec (.btstImm ea) s = .next (z s1 b)) ∧ Changes [] ea.updates [] s (z s1 b)

/-- ABCD, SBCD and NBCD in registers: X and C the decimal carry or borrow, Z only cleared, N and V open; for invalid
digits the byte and the flags are open and everything else is as it is (45_bcd.md R280, R282 to R286). The result on valid
digits and what is open on invalid ones are decision D8; that those flags are open each for itself is the model's choice
(log 15). -/
def Obligations.DecimalRegisterResult : Prop :=
  ∀ (x y : RegNo) (s : State),
    let d : Byte := lowPart .b (s.dreg x)
    let v : Byte := lowPart .b (s.dreg y)
    let u := { s with draws := s.draws + 1 }
    let t := fun (o : Byte × Bool) (n w : Bool) =>
      (u.setCcr { x := o.2, n := n, z := s.ccr.z && decide (o.1 = 0), v := w, c := o.2 }).setDlow x .b o.1
    let any := fun (f : Ccr) (r : Byte) => (u.setCcr f).setDlow x .b r
    (isBcd d = true → isBcd v = true → ∃ n w, exec (.abcd .regs x y) s = .next (t (bcdAdd d v s.ccr.x) n w)) ∧
    (isBcd d = true → isBcd v = true → ∃ n w, exec (.sbcd .regs x y) s = .next (t (bcdSub d v s.ccr.x) n w)) ∧
    (isBcd d = true → ∃ n w, exec (.nbcd (.dn x)) s = .next (t (bcdSub 0 d s.ccr.x) n w)) ∧
    ((isBcd d && isBcd v) = false → ∃ f r, exec (.abcd .regs x y) s = .next (any f r)) ∧
    ((isBcd d && isBcd v) = false → ∃ f r, exec (.sbcd .regs x y) s = .next (any f r)) ∧
    (isBcd d = false → ∃ f r, exec (.nbcd (.dn x)) s = .next (any f r)) ∧
    ∀ f r, Changes [x] [] [] s (any f r)

/-- ABCD, SBCD and NBCD in memory: source first, both registers step down, the byte stored where the destination was read
(45_bcd.md R284, R285, R286). The result on valid digits, and that the instruction completes with an open byte and flags
on invalid ones, are decision D8; which of them are open is the model's choice (log 15). -/
def Obligations.DecimalMemoryResult : Prop :=
  (∀ (x y : RegNo) (s : State),
    let s1 := s.setAreg y (s.areg y - stepOf .b y)
    let s2 := s1.setAreg x (s1.areg x - stepOf .b x)
    let ay := s1.areg y
    let ax := s2.areg x
    let fc := s.dataFc
    let d := s.byteAt fc ax
    let v := s.byteAt fc ay
    let t := fun (f : Ccr) (r : Byte) => ({ s2 with draws := s2.draws + 1 }.setCcr f).store fc ax .b r
    s.canRead fc ay .b = true → s.canRead fc ax .b = true → s.canStore fc ax .b = true →
    (∃ f r, exec (.abcd .mem x y) s = .next (t f r) ∧ (isBcd d = true → isBcd v = true →
      let o := bcdAdd d v s.ccr.x
      r = o.1 ∧ f.x = o.2 ∧ f.c = o.2 ∧ f.z = (s.ccr.z && decide (o.1 = 0)))) ∧
    (∃ f r, exec (.sbcd .mem x y) s = .next (t f r) ∧ (isBcd d = true → isBcd v = true →
      let o := bcdSub d v s.ccr.x
      r = o.1 ∧ f.x = o.2 ∧ f.c = o.2 ∧ f.z = (s.ccr.z && decide (o.1 = 0)))) ∧
    ∀ f r, Changes [] [x, y] (s.cells fc ax .b) s (t f r)) ∧
  ∀ (ea : Ea) (s s1 : State) (a : Long), ea.isMemAlterable = true → eaAddr .b ea s = .ok a s1 →
    s1.canRead s1.dataFc a .b = true → s1.canStore s1.dataFc a .b = true →
    let t := fun (f : Ccr) (r : Byte) => ({ s1 with draws := s1.draws + 1 }.setCcr f).store s1.dataFc a .b r
    (∃ f r, exec (.nbcd ea) s = .next (t f r) ∧ (isBcd (s1.byteAt s1.dataFc a) = true →
      let o := bcdSub 0 (s1.byteAt s1.dataFc a) s1.ccr.x
      r = o.1 ∧ f.x = o.2 ∧ f.c = o.2 ∧ f.z = (s1.ccr.z && decide (o.1 = 0)))) ∧
    ∀ f r, Changes [] ea.updates (s1.cells s1.dataFc a .b) s (t f r)

/-- On valid digits the decimal operations (decision D8) are the decimal sum and difference of the values the bytes stand for, and
their results have valid digits (45_bcd.md R281, R283). -/
def Obligations.DecimalValues : Prop :=
  ∀ (d v : Byte) (x : Bool), isBcd d = true → isBcd v = true →
    let value := fun b : Byte => b.toNat / 16 * 10 + b.toNat % 16
    value d + value v + carryIn x = 100 * carryIn (bcdAdd d v x).2 + value (bcdAdd d v x).1 ∧
    value d + 100 * carryIn (bcdSub d v x).2 = value (bcdSub d v x).1 + value v + carryIn x ∧
    isBcd (bcdAdd d v x).1 = true ∧ isBcd (bcdSub d v x).1 = true

/-- TAS: the flags of the old byte, then bit 7 set, in a register and in memory (48_multiprocessor.md R350). Its cycle is
never retried: a request for a retry in either half is a bus error, before the flags or after them (R352, 20_memory.md
R79). That the flags are then certain, where those of other cut-off instructions are open, is log 26. -/
def Obligations.TestAndSetResult : Prop :=
  (∀ (n : RegNo) (s : State), let d : Byte := lowPart .b (s.dreg n)
    let t := (s.setCcr (moveFlags s.ccr d)).setDlow n .b (d ||| 0x80)
    exec (.tas (.dn n)) s = .next t ∧ Changes [n] [] [] s t) ∧
  (∀ (ea : Ea) (s s1 : State) (a : Long), ea.isMemAlterable = true → eaAddr .b ea s = .ok a s1 →
    s1.canRead s1.dataFc a .b = true → s1.canStore s1.dataFc a .b = true → s1.unretried s1.dataFc a = true →
    let d := s1.byteAt s1.dataFc a
    let t := (s1.setCcr (moveFlags s1.ccr d)).store s1.dataFc a .b (d ||| 0x80)
    exec (.tas ea) s = .next t ∧ Changes [] ea.updates (s1.cells s1.dataFc a .b) s t) ∧
  ∀ (n : RegNo) (s : State), s.platform.memMap = [] → s.canFrame .busError = true →
    let a := s.areg n
    let d := s.byteAt s.dataFc a
    let others := fun t : State => t.d = s.d ∧ t.a = s.a ∧ t.usp = s.usp
    (s.retries (.reading s.dataFc a false) = true →
      ∃ t, exec (.tas (.ind n)) s = .next t ∧ t.ccr = s.ccr ∧ others t ∧
        ErrorTaken s t .busError (if s.supervisor then 0x15 else 0x11) a) ∧
    (s.retries (.reading s.dataFc a false) = false → s.canRead s.dataFc a .b = true →
      s.retries (.writing s.dataFc a false ((d ||| 0x80).setWidth 16)) = true →
      ∃ t, exec (.tas (.ind n)) s = .next t ∧ t.ccr = moveFlags s.ccr d ∧ others t ∧
        ErrorTaken s t .busError (if s.supervisor then 0x05 else 0x01) a)

/-! ## Program and system control -/

/-- Branch targets are relative to the address after the operation word; BRA, Bcc, DBcc, JMP and NOP (46_program_control.md
R291 to R293, R295, R296, R299). -/
def Obligations.BranchResult : Prop :=
  (∀ (disp : Byte) (s : State), disp ≠ 0 → branchTarget disp s = .ok (s.pc + disp.signExtend 32) s) ∧
  (∀ (w : Word) (s s1 : State), fetch16 s = .ok w s1 → branchTarget 0 s = .ok (s.pc + w.signExtend 32) s1) ∧
  (∀ (disp : Byte) (s s1 : State) (a : Long), branchTarget disp s = .ok a s1 →
    exec (.bra disp) s = .next (s1.jump a) ∧
    (∀ c, exec (.bcc c disp) s = .next (if condHolds c s.ccr then s1.jump a else s1)) ∧
    Changes [] [] [] s (s1.jump a) ∧ Changes [] [] [] s s1 ∧ (s1.jump a).sr = s.sr ∧ s1.sr = s.sr) ∧
  (∀ (c : Cond) (dn : RegNo) (s s1 : State) (a : Long), branchTarget 0 s = .ok a s1 →
    let k := lowPart .w (s.dreg dn) - 1
    let t := s1.setDlow dn .w k
    exec (.dbcc c dn) s = .next (if condHolds c s.ccr then s1 else if k = 0xFFFF then t else t.jump a) ∧
    Changes [dn] [] [] s t ∧ Changes [dn] [] [] s (t.jump a) ∧ t.sr = s.sr) ∧
  (∀ (ea : Ea) (s s1 : State) (a : Long), ea.isControl = true → eaAddr .l ea s = .ok a s1 →
    exec (.jmp ea) s = .next (s1.jump a) ∧ Changes [] [] [] s (s1.jump a) ∧ (s1.jump a).sr = s.sr) ∧
  ∀ s : State, exec .nop s = .next s

/-- RTS, RTR and RTE pop from the active stack; RTR restores the condition codes, RTE the whole SR
(46_program_control.md R310, R311, R312). -/
def Obligations.ReturnResult : Prop :=
  ∀ s : State, let sp := s.areg spReg
    let fc := s.dataFc
    (s.canRead fc sp .l = true →
      let t := (s.setAreg spReg (sp + 4)).jump (s.load fc sp .l)
      exec .rts s = .next t ∧ Changes [] [spReg] [] s t ∧ t.sr = s.sr) ∧
    (s.canRead fc sp .w = true → s.canRead fc (sp + 2) .l = true →
      let t := ((s.writeCcr (s.load fc sp .w)).setAreg spReg (sp + 6)).jump (s.load fc (sp + 2) .l)
      exec .rtr s = .next t ∧ Changes [] [spReg] [] s t ∧ t.ccr = ccrOf (s.load fc sp .w)) ∧
    (s.supervisor = true → s.canRead fc sp .w = true → s.canRead fc (sp + 2) .l = true →
      let t := ({ s with ssp := s.ssp + 6 }.writeSr (s.load fc sp .w)).jump (s.load fc (sp + 2) .l)
      exec .rte s = .next t ∧ t.sr = s.load fc sp .w &&& 0xA71F ∧ t.d = s.d ∧ t.a = s.a ∧ t.usp = s.usp ∧
      t.run = s.run ∧ MemoryKept [] s t)

/-- The CCR instructions: only the five condition codes change (47_system_control.md R321 to R324, R331). -/
def Obligations.ConditionCodeWrites : Prop :=
  (∀ (s s1 : State) (w : Word), fetch16 s = .ok w s1 →
    exec .andiToCcr s = .next (s1.setCcr (ccrOf (s.sr &&& w))) ∧
    exec .eoriToCcr s = .next (s1.setCcr (ccrOf (s.sr ^^^ w))) ∧
    exec .oriToCcr s = .next (s1.setCcr (ccrOf (s.sr ||| w))) ∧
    ∀ f, Changes [] [] [] s (s1.setCcr f)) ∧
  ∀ (ea : Ea) (s s1 : State) (w : Word), readEa .w ea s = .ok w s1 →
    exec (.moveToCcr ea) s = .next (s1.setCcr (ccrOf w)) ∧ Changes [] ea.updates [] s (s1.setCcr (ccrOf w))

/-- The SR instructions, MOVE USP, RESET and STOP in supervisor mode: SR takes the implemented bits of the value; the
registers and memory are unchanged (47_system_control.md R321, R325 to R327, R332, R336, R337, R339, R340). The implemented
bits are decision D5; that STOP loads S = 0 as it stands is decision D20; that RESET counts a pulse and does nothing else is
the model's choice (log 21, D26). -/
def Obligations.SupervisorResult : Prop :=
  ∀ s : State, s.supervisor = true →
    let others := fun t : State => t.d = s.d ∧ t.a = s.a ∧ t.usp = s.usp ∧ t.ssp = s.ssp ∧ MemoryKept [] s t
    (∀ (s1 : State) (w : Word), fetch16 s = .ok w s1 →
      let t := fun v : Word => { s1 with sr := v &&& 0xA71F }
      exec .andiToSr s = .next (t (s.sr &&& w)) ∧ exec .eoriToSr s = .next (t (s.sr ^^^ w)) ∧
      exec .oriToSr s = .next (t (s.sr ||| w)) ∧ exec .stop s = .next { t w with run := .stopped } ∧
      (∀ v, others (t v)) ∧ others { t w with run := .stopped }) ∧
    (∀ (ea : Ea) (s1 : State) (w : Word), readEa .w ea s = .ok w s1 →
      exec (.moveToSr ea) s = .next { s1 with sr := w &&& 0xA71F } ∧ s1.d = s.d ∧ s1.mem = s.mem ∧ s1.usp = s.usp ∧
      ∀ n, n ∉ ea.updates → s1.areg n = s.areg n) ∧
    (∀ an, exec (.moveToUsp an) s = .next { s with usp := s.areg an } ∧
      exec (.moveFromUsp an) s = .next (s.setAreg an s.usp) ∧
      Changes [] [an] [] s (s.setAreg an s.usp) ∧ (s.setAreg an s.usp).sr = s.sr) ∧
    exec .reset s = .next { s with deviceResets := s.deviceResets + 1 }

/-- In user mode every privileged instruction takes the privilege violation, vector 8, with the address of its operation
word, and does nothing else (60_exceptions.md R381, R420, R421). -/
def Obligations.PrivilegeViolation : Prop :=
  ∀ s : State, s.supervisor = false → s.canEnter 8 = true →
    let t := { s with tracePending := false }.entered 8 (s.pc - 2) none
    (∀ i ∈ [Instr.andiToSr, .eoriToSr, .oriToSr, .reset, .stop, .rte], exec i s = .next t) ∧
    (∀ ea, exec (.moveToSr ea) s = .next t) ∧
    (∀ an, exec (.moveToUsp an) s = .next t ∧ exec (.moveFromUsp an) s = .next t) ∧
    t.d = s.d ∧ t.a = s.a ∧ t.usp = s.usp

/-- TRAP, TRAPV, ILLEGAL and the two unimplemented lines: vector and saved PC; TRAPV without overflow does nothing
(47_system_control.md R330, R341, R342, 60_exceptions.md R372, R378 to R380, R385, R386). -/
def Obligations.TrapResult : Prop :=
  ∀ s : State,
    (∀ n : Fin 16, s.canEnter (BitVec.ofNat 8 (32 + n.val)) = true →
      exec (.trap n) s = .next (s.entered (BitVec.ofNat 8 (32 + n.val)) s.pc none)) ∧
    (s.ccr.v = false → exec .trapv s = .next s) ∧
    (s.ccr.v = true → s.canEnter 7 = true → exec .trapv s = .next (s.entered 7 s.pc none)) ∧
    let u := { s with tracePending := false }
    (s.canEnter 4 = true → exec .illegal s = .next (u.entered 4 (s.pc - 2) none)) ∧
    (s.canEnter 10 = true → ∀ low, exec (.lineA low) s = .next (u.entered 10 (s.pc - 2) none)) ∧
    (s.canEnter 11 = true → ∀ low, exec (.lineF low) s = .next (u.entered 11 (s.pc - 2) none))

/-- CHK: in bounds nothing but open N, Z, V, C; out of bounds vector 6, with N telling which bound; X is kept
(47_system_control.md R329, 60_exceptions.md R383). -/
def Obligations.CheckBounds : Prop :=
  ∀ (dn : RegNo) (ea : Ea) (s s1 : State) (bound : Word), readEa .w ea s = .ok bound s1 →
    let v : Word := lowPart .w (s1.dreg dn)
    let u := fun n z o c : Bool =>
      { s1 with draws := s1.draws + 1 }.setCcr { x := s1.ccr.x, n := n, z := z, v := o, c := c }
    (0 ≤ v.toInt → v.toInt ≤ bound.toInt → ∃ n z o c, exec (.chk dn ea) s = .next (u n z o c)) ∧
    (v.toInt < 0 → s1.canEnter 6 = true → ∃ z o c, exec (.chk dn ea) s = .next ((u true z o c).entered 6 s1.pc none)) ∧
    (0 ≤ v.toInt → bound.toInt < v.toInt → s1.canEnter 6 = true →
      ∃ z o c, exec (.chk dn ea) s = .next ((u false z o c).entered 6 s1.pc none)) ∧
    ∀ n z o c, Changes [] ea.updates [] s (u n z o c)

/-! ## Exceptions and the machine between instructions -/

/-- The entry of an exception with the short frame: S set, T clear, SR and PC saved on the supervisor stack, nothing else
changed but the frame's six bytes (60_exceptions.md R370, R371). Memory reads back what is stored. -/
def Obligations.ShortFrame : Prop :=
  ∀ (s : State) (n : Byte) (pc : Long) (l : Option (BitVec 3)), s.platform.memMap = [] →
    s.canEnter n = true →
    let t := s.entered n pc l
    enterException n pc l s = .ok () t ∧ t.ssp = s.ssp - 6 ∧ t.load 5 t.ssp .w = s.sr ∧
    t.load 5 (t.ssp + 2) .l = pc ∧ t.pc = t.load 5 (vectorAddr n) .l ∧ t.supervisor = true ∧ t.tracing = false ∧
    t.mask = l.getD s.mask ∧ t.ccr = s.ccr ∧ t.run = .running ∧ t.d = s.d ∧ t.a = s.a ∧ t.usp = s.usp ∧
    MemoryKept (s.cells 5 (s.ssp - 4) .l ++ s.cells 5 (s.ssp - 6) .w) s t

/-- Word and long operands at an odd address, read and written, and an instruction at an odd address: the address error,
vector 3, with the seven-word frame; a bus error on a read and on a write: vector 2 with the same frame (60_exceptions.md
R376, R377, R384; 20_memory.md R68 to R70). The operands are those of MOVE with `(An)`, so that no register changes
before the failing access: that none has changed then rests on decision D31 (log 7). The saved PC lies 2 to 10 bytes
after the instruction's start (decision D12, log 8), the upper bits of the access word are open (decision D14), the error
of an odd PC comes with the fetch (decision D30), and the window of a double bus fault is open (log 11). -/
def Obligations.OddOperandAddressError : Prop :=
  ∀ (s : State) (sz : Size) (n m : RegNo), s.platform.memMap = [] →
    let a := s.areg n
    let read : BitVec 5 := if s.supervisor then 0x15 else 0x11
    let write : BitVec 5 := if s.supervisor then 0x05 else 0x01
    let fetch : BitVec 5 := if s.supervisor then 0x16 else 0x12
    let others := fun t : State => t.d = s.d ∧ t.a = s.a ∧ t.usp = s.usp
    let inProgress := fun t : State => t.load 5 (t.ssp + 6) .w = s.ir ∧
      ∃ k : Nat, k < 5 ∧ t.load 5 (t.ssp + 10) .l = s.pc + BitVec.ofNat 32 (2 * k)
    (sz ≠ .b → evenAddr a = false → evenAddr s.pc = true → s.canFrame .addressError = true →
      (∃ t, exec (.move sz (.ind n) (.dn m)) s = .next t ∧ ErrorTaken s t .addressError read a ∧ others t ∧
        inProgress t ∧ t.load 5 (t.ssp + 8) .w = s.sr) ∧
      ∃ t, exec (.move sz (.dn m) (.ind n)) s = .next t ∧ ErrorTaken s t .addressError write a ∧ others t ∧
        inProgress t) ∧
    ((sz ≠ .b → evenAddr a = true) → evenAddr s.pc = true → s.canFrame .busError = true →
      (s.answer (.reading s.dataFc a (decide (sz ≠ .b))) = .busError →
        ∃ t, exec (.move sz (.ind n) (.dn m)) s = .next t ∧ ErrorTaken s t .busError read a ∧ others t ∧
          inProgress t ∧ t.load 5 (t.ssp + 8) .w = s.sr) ∧
      ((∀ w, s.answer (.writing s.dataFc a (decide (sz ≠ .b)) w) = .busError) →
        ∃ t, exec (.move sz (.dn m) (.ind n)) s = .next t ∧ ErrorTaken s t .busError write a ∧ others t ∧
          inProgress t)) ∧
    (s.run = .running → s.tracePending = false → s.nextSample.reset = none → s.sampled.acceptedLevel = none →
      s.window = .none → evenAddr s.pc = false → s.canFrame .addressError = true →
      ∃ t, step s = .next t ∧ ErrorTaken s t .addressError fetch s.pc ∧ others t ∧
        t.load 5 (t.ssp + 8) .w = s.sr)

/-- An odd supervisor stack makes a trap's stacking an address error, whose own stacking fails: the machine halts, and
then only a reset input is acted upon (60_exceptions.md R410, R411, R427). So does a fetch at an odd PC in the window of a
double bus fault, after a group-0 entry or a reset (decision D30, U27; log 11). That a step of a halted machine with no
input left is a fault, and otherwise passes over the input, is the model's choice (log 12). -/
def Obligations.OddStackHalts : Prop :=
  (∀ (s : State) (n : Fin 16), evenAddr s.ssp = false →
    ∃ t, exec (.trap n) s = .next t ∧ t.run = .halted) ∧
  (∀ s : State, s.run = .running → s.tracePending = false → s.nextSample.reset = none →
    s.sampled.acceptedLevel = none → s.window ≠ .none → evenAddr s.pc = false →
    ∃ t, step s = .next t ∧ t.run = .halted) ∧
  ∀ s : State, s.run = .halted →
    (s.inputs = [] → step s = .fault .halted) ∧
    ∀ smp rest, s.inputs = smp :: rest → smp.reset = none → step s = .next { s with inputs := rest }

/-- External reset, in every run state: S, T and the mask, SSP and PC from vectors 0 and 1 in supervisor program space,
memory unchanged, the level-7 memory clear (70_reset_and_hazards.md R430, R431, R433, with decision D15); a vector that
cannot be read halts the machine (R432). In the course of a step it ends whatever the step does, and the reset sequence
follows; that this is one step is the model's choice (log 5). -/
def Obligations.ExternalReset : Prop :=
  (∀ (s : State) (smp : Sample) (rest : List Sample), s.inputs = smp :: rest → smp.reset = some 0 →
    (s.canRead 6 0 .l = true → s.canRead 6 4 .l = true →
      ∃ t, step s = .next t ∧ t.supervisor = true ∧ t.tracing = false ∧ t.mask = 7 ∧ t.ssp = s.load 6 0 .l ∧
        t.pc = s.load 6 4 .l ∧ t.run = .running ∧ t.nmiPending = false ∧ t.mem = s.mem ∧ t.inputs = rest) ∧
    (s.answer (.reading 6 0 true) = .busError → ∃ t, step s = .next t ∧ t.run = .halted ∧ t.mem = s.mem)) ∧
  (∀ (s t : State) (smp : Sample) (rest : List Sample) (n : Nat), s.inputs = smp :: rest → smp.reset = some (n + 1) →
    step s = .next t → t.supervisor = true ∧ t.tracing = false ∧ t.mask = 7 ∧ t.nmiPending = false ∧
      t.tracePending = false ∧ t.window = .reset ∧ t.resetIn = none ∧ t.inputs = rest ∧
      (t.run = .running ∨ t.run = .halted)) ∧
  ∀ (s : State) (smp : Sample) (rest : List Sample), s.inputs = smp :: rest → smp.reset = some 1 →
    s.run = .running → s.tracePending = false → (s.armed smp rest 1).sampled.acceptedLevel = none →
    evenAddr s.pc = true → s.freshPc = true →
    decode s.nextWord = .ok .rts → s.platform.memMap = [] → evenAddr (s.areg spReg) = true →
    s.platform.responses = [] →
    ∃ t, step s = .next t ∧ t.ssp = s.load 6 0 .l ∧ t.pc = s.load 6 4 .l ∧ t.run = .running

/-- The machine right after reset: the values that the spec gives, with SSP and PC from the reset vector in its own
memory, which lists nothing else (10_state.md R50). That the vector holds 0 is the model's choice (log 3). -/
def Obligations.ResetValues : Prop :=
  let s := State.reset
  s.supervisor = true ∧ s.tracing = false ∧ s.mask = 7 ∧ s.sr &&& ~~~srMask = 0 ∧ s.run = .running ∧
  s.nmiPending = false ∧ s.stale = [] ∧ s.ssp = s.load 6 0 .l ∧ s.pc = s.load 6 4 .l ∧ s.ssp = 0 ∧ s.pc = 0 ∧
  ∀ k, 8 ≤ k → s.mem.lookup k = none

/-- The invariant holds right after reset. -/
def Obligations.ResetMeetsInvariant : Prop := State.reset.wf

/-- Every step, of every state that meets the invariant, keeps it: memory stays canonical and the unimplemented bits of
SR stay 0 (10_state.md R39). -/
def Obligations.StepKeepsInvariant : Prop := ∀ s t : State, s.wf → step s = .next t → t.wf

/-- No instruction executed in user mode changes the system byte of SR or the run state, but by an exception entry: it
then leaves S set, T clear, the mask as it was and PC from a vector, or the machine halted (60_exceptions.md R360, R361);
or a reset has cut it off. The vectors are in memory, not in a device. -/
def Obligations.UserModeConfined : Prop :=
  ∀ (i : Instr) (s t : State), s.supervisor = false → s.run = .running →
    (∀ (n : Byte) (k : Long), k = 0 ∨ k = 2 → s.answer (.reading 5 (vectorAddr n + k) true) ≠ .device) →
    exec i s = .next t →
    t.resetIn = some 0 ∨
    (t.sr.extractLsb' 5 11 = s.sr.extractLsb' 5 11 ∧ t.run = .running) ∨
    (t.supervisor = true ∧ t.tracing = false ∧ t.mask = s.mask ∧
      (t.run = .halted ∨ (t.run = .running ∧ ∃ n, t.pc = t.load 5 (vectorAddr n) .l)))

/-- A step runs the decoded instruction: with nothing pending, the word at PC is fetched into IR, PC moves past it, the
trace flag is sampled, and exec's meaning of the decoded instruction is the step (30_encoding.md R104; 60_exceptions.md
R392, R410). The inputs have been sampled first. -/
def Obligations.StepRunsDecodedInstruction : Prop :=
  ∀ (s : State) (i : Instr), s.run = .running → s.tracePending = false → s.nextSample.reset = none →
    s.sampled.acceptedLevel = none → s.canFetch = true → s.freshPc = true → decode s.nextWord = .ok i →
    step s = exec i { s.sampled with pc := s.pc + 2, ir := s.nextWord, window := .none, tracePending := s.tracing }

/-- An operation word that is no instruction takes the illegal-instruction exception, vector 4, with its own address
saved, and is not traced (60_exceptions.md R378; 30_encoding.md R150). -/
def Obligations.UnassignedWordIsIllegal : Prop :=
  ∀ (s : State) (e : DecodeError), s.run = .running → s.tracePending = false → s.nextSample.reset = none →
    s.sampled.acceptedLevel = none → s.canFetch = true → s.freshPc = true → decode s.nextWord = .error e →
    s.canEnter 4 = true →
    step s = .next ({ s.sampled with pc := s.pc + 2, ir := s.nextWord, window := .none, tracePending := false }.entered
      4 s.pc none)

/-- Trace: due after an instruction that began with T set, it comes before an interrupt and saves the address of the next
instruction (60_exceptions.md R363, R392). That the pending trace is a bit of the state, and a step of its own, is the
model's choice (log 16). -/
def Obligations.TraceIsTaken : Prop :=
  ∀ s : State, s.run ≠ .halted → s.tracePending = true → s.nextSample.reset = none → s.canEnter 9 = true →
    step s = .next ({ s with tracePending := false }.entered 9 s.pc none)

/-- An interrupt is taken when its level exceeds the mask or a transition to level 7 is remembered: mask raised to the
level, the vector the acknowledge gives, the address of the next instruction saved; a stopped machine runs again
(60_exceptions.md R395 to R398, R425). The memory of a transition to level 7 is decision D15 (log 17). -/
def Obligations.InterruptIsTaken : Prop :=
  ∀ (s : State) (l : BitVec 3) (n : Byte), s.run ≠ .halted → s.tracePending = false → s.nextSample.reset = none →
    s.sampled.acceptedLevel = some l →
    (match s.nextSample.ack with
      | .vector v => n = v
      | .autovector => n = 24 + l.setWidth 8
      | .spurious => n = 24
      | .silent => False) → s.canEnter n = true →
    step s = .next ({ s.sampled with nmiPending := s.sampled.nmiPending && decide (l ≠ 7) }.entered n s.pc (some l)) ∧
    (l = 7 ∨ (s.sampled.ipl = l ∧ s.mask < l))

/-- A request is accepted exactly when its level exceeds the mask or a transition to level 7 has been seen; a level that
stays at 7 is not seen again (60_exceptions.md R395, R396, with decision D15; log 17). A stopped machine with nothing to
accept waits, changing no register (R425); that its wait is a next state that samples the inputs is the model's choice
(log 12). -/
def Obligations.InterruptAcceptance : Prop :=
  (∀ s : State, s.sampled.acceptedLevel = none ↔
    (s.nmiPending = false ∧ ¬ (s.nextSample.level = 7 ∧ s.ipl ≠ 7) ∧ ¬ s.mask < s.nextSample.level)) ∧
  (∀ s : State, s.nmiPending = false → s.ipl = 7 → s.nextSample.level = 7 → s.mask = 7 →
    s.sampled.acceptedLevel = none) ∧
  ∀ s : State, s.run = .stopped → s.tracePending = false → s.nextSample.reset = none →
    s.sampled.acceptedLevel = none → step s = .next s.sampled
end

