-- ==== Sys2Proof/Laws/Memory.lean ====
section
/-! SUPPORT. Memory as data: reads after writes, and the canonical form that every operation keeps. -/

namespace Sys2Proof.Machine

@[simp] theorem Memory.lookup_nil (k : Nat) : Memory.lookup [] k = none := rfl

/-- A cell below every listed one is not listed. -/
theorem Memory.lookup_below {m : Memory} {k : Nat} (h : ∀ c ∈ m, k < c.1) : m.lookup k = none := by
  induction m with
  | nil => rfl
  | cons c rest ih =>
    have hc := h c (by simp)
    simp only [Memory.lookup]
    rw [if_neg (by omega)]
    exact ih fun d hd => h d (List.mem_cons_of_mem _ hd)

/-- A cell written is listed with what was written. -/
theorem Memory.lookup_set_same (m : Memory) (k : Nat) (v : Byte) : (m.set k v).lookup k = some v := by
  induction m with
  | nil => simp [Memory.set, Memory.lookup]
  | cons c rest ih =>
    simp only [Memory.set]
    split
    · simp [Memory.lookup]
    · split
      · simp [Memory.lookup]
      · simp only [Memory.lookup]
        rw [if_neg (by omega)]
        exact ih

/-- Every other cell keeps its entry. -/
theorem Memory.lookup_set_other (m : Memory) {k j : Nat} (v : Byte) (h : j ≠ k) :
    (m.set k v).lookup j = m.lookup j := by
  induction m with
  | nil => simp [Memory.set, Memory.lookup, Ne.symm h]
  | cons c rest ih =>
    simp only [Memory.set]
    split
    · simp [Memory.lookup, Ne.symm h]
    · split
      · rename_i hk
        simp [Memory.lookup, ← hk, Ne.symm h]
      · simp only [Memory.lookup, ih]

/-- A cell written reads as what was written. -/
theorem Memory.get_set_same (m : Memory) (k : Nat) (v : Byte) : (m.set k v).get k = v := by
  simp [Memory.get, Memory.lookup_set_same]

/-- Every other cell reads as before. -/
theorem Memory.get_set_other (m : Memory) {k j : Nat} (v : Byte) (h : j ≠ k) : (m.set k v).get j = m.get j := by
  simp [Memory.get, Memory.lookup_set_other m v h]

/-- The entries of a memory after a write are among the old ones and the written one. -/
theorem Memory.mem_set {m : Memory} {k : Nat} {v : Byte} {c : Host.Cell} (h : c ∈ m.set k v) : c ∈ m ∨ c = (k, v) := by
  induction m with
  | nil => simpa [Memory.set] using h
  | cons d rest ih =>
    simp only [Memory.set] at h
    split at h
    · simp only [List.mem_cons] at h ⊢; tauto
    · split at h
      · simp only [List.mem_cons] at h ⊢; tauto
      · simp only [List.mem_cons] at h ⊢
        rcases h with h | h
        · exact .inl (.inl h)
        · rcases ih h with h | h
          · exact .inl (.inr h)
          · exact .inr h

/-- A write keeps the canonical form. -/
theorem Memory.set_wf {m : Memory} (k : Nat) (v : Byte) (h : Memory.wf m) : Memory.wf (m.set k v) := by
  induction m with
  | nil => simp [Memory.set, Memory.wf]
  | cons d rest ih =>
    have hp := List.pairwise_cons.1 h
    simp only [Memory.set]
    split
    · rename_i h1
      refine List.pairwise_cons.2 ⟨fun c hc => ?_, h⟩
      rcases List.mem_cons.1 hc with rfl | hc
      · exact h1
      · exact lt_trans h1 (hp.1 c hc)
    · split
      · rename_i h2
        subst h2
        exact List.pairwise_cons.2 ⟨hp.1, hp.2⟩
      · refine List.pairwise_cons.2 ⟨fun c hc => ?_, ih hp.2⟩
        rcases Memory.mem_set hc with hc | rfl
        · exact hp.1 c hc
        · show d.1 < k; omega

/-- A word store keeps the canonical form. -/
theorem Memory.setWord_wf {m : Memory} (k : Nat) (w : Word) (h : Memory.wf m) : Memory.wf (m.setWord k w) :=
  Memory.set_wf _ _ (Memory.set_wf _ _ h)

/-- What a cut-off instruction leaves of memory is in canonical form. -/
theorem blendMem_wf {new : Memory} (n : Nat) (old : Memory) (h : Memory.wf new) : Memory.wf (blendMem n old new) := by
  unfold blendMem
  generalize new.map Prod.fst = ks
  induction ks generalizing new with
  | nil => exact h
  | cons k ks ih =>
    refine ih ?_
    show Memory.wf (blendCell n old new k)
    unfold blendCell
    split
    · exact h
    · exact Memory.set_wf _ _ h

/-- A word written reads as what was written. -/
theorem Memory.getWord_setWord_same (m : Memory) (k : Nat) (w : Word) : (m.setWord k w).getWord k = w := by
  unfold Memory.getWord Memory.setWord
  rw [Memory.get_set_same, Memory.get_set_other _ _ (by omega : k ≠ k + 1), Memory.get_set_same]
  apply BitVec.eq_of_getLsbD_eq
  intro i hi
  rw [BitVec.getLsbD_append]
  by_cases h8 : i < 8
  · simp [h8]
  · simp [h8, show i - 8 < 8 by omega, show 8 + (i - 8) = i by omega]

/-- A word store leaves every other cell. -/
theorem Memory.get_setWord_other (m : Memory) {k j : Nat} (w : Word) (h : j ≠ k) (h' : j ≠ k + 1) :
    (m.setWord k w).get j = m.get j := by
  unfold Memory.setWord
  rw [Memory.get_set_other _ _ h', Memory.get_set_other _ _ h]

/-- The canonical form determines the memory: two of them with the same entries are equal. -/
theorem Memory.ext_lookup {m m' : Memory} (h : Memory.wf m) (h' : Memory.wf m')
    (e : ∀ k, m.lookup k = m'.lookup k) : m = m' := by
  induction m generalizing m' with
  | nil =>
    cases m' with
    | nil => rfl
    | cons c t => simpa [Memory.lookup] using e c.1
  | cons c t ih =>
    cases m' with
    | nil => simpa [Memory.lookup] using e c.1
    | cons c' t' =>
      obtain ⟨k, v⟩ := c
      obtain ⟨k', v'⟩ := c'
      have hp := List.pairwise_cons.1 h
      have hp' := List.pairwise_cons.1 h'
      have hk : k = k' := by
        rcases lt_trichotomy k k' with hlt | heq | hlt
        · have := e k
          simp only [Memory.lookup, if_true] at this
          rw [if_neg (by omega), Memory.lookup_below fun c hc => lt_trans hlt (hp'.1 c hc)] at this
          simp at this
        · exact heq
        · have := e k'
          simp only [Memory.lookup, if_true] at this
          rw [if_neg (by omega), Memory.lookup_below fun c hc => lt_trans hlt (hp.1 c hc)] at this
          simp at this
      subst hk
      have hv : v = v' := by simpa [Memory.lookup] using e k
      subst hv
      have : t = t' := by
        apply ih hp.2 hp'.2
        intro j
        by_cases hj : k = j
        · subst hj
          rw [Memory.lookup_below fun c hc => hp.1 c hc, Memory.lookup_below fun c hc => hp'.1 c hc]
        · simpa [Memory.lookup, hj] using e j
      rw [this]

end Sys2Proof.Machine
end

