-- ==== Sys2Proof/Laws/State.lean ====
section
/-! SUPPORT. What each named update of the state does to each field, and register reads after register writes. -/

namespace Sys2Proof.Machine

/-! `setDreg`, `setDlow`: D only. -/

@[simp] theorem State.setDreg_a (s : State) (n : RegNo) (v : Long) : (s.setDreg n v).a = s.a := rfl
@[simp] theorem State.setDreg_usp (s : State) (n : RegNo) (v : Long) : (s.setDreg n v).usp = s.usp := rfl
@[simp] theorem State.setDreg_ssp (s : State) (n : RegNo) (v : Long) : (s.setDreg n v).ssp = s.ssp := rfl
@[simp] theorem State.setDreg_pc (s : State) (n : RegNo) (v : Long) : (s.setDreg n v).pc = s.pc := rfl
@[simp] theorem State.setDreg_sr (s : State) (n : RegNo) (v : Long) : (s.setDreg n v).sr = s.sr := rfl
@[simp] theorem State.setDreg_ir (s : State) (n : RegNo) (v : Long) : (s.setDreg n v).ir = s.ir := rfl
@[simp] theorem State.setDreg_run (s : State) (n : RegNo) (v : Long) : (s.setDreg n v).run = s.run := rfl
@[simp] theorem State.setDreg_ipl (s : State) (n : RegNo) (v : Long) : (s.setDreg n v).ipl = s.ipl := rfl
@[simp] theorem State.setDreg_nmiPending (s : State) (n : RegNo) (v : Long) : (s.setDreg n v).nmiPending = s.nmiPending := rfl
@[simp] theorem State.setDreg_tracePending (s : State) (n : RegNo) (v : Long) : (s.setDreg n v).tracePending = s.tracePending := rfl
@[simp] theorem State.setDreg_window (s : State) (n : RegNo) (v : Long) : (s.setDreg n v).window = s.window := rfl
@[simp] theorem State.setDreg_stale (s : State) (n : RegNo) (v : Long) : (s.setDreg n v).stale = s.stale := rfl
@[simp] theorem State.setDreg_mem (s : State) (n : RegNo) (v : Long) : (s.setDreg n v).mem = s.mem := rfl
@[simp] theorem State.setDreg_platform (s : State) (n : RegNo) (v : Long) : (s.setDreg n v).platform = s.platform := rfl
@[simp] theorem State.setDreg_resetIn (s : State) (n : RegNo) (v : Long) : (s.setDreg n v).resetIn = s.resetIn := rfl
@[simp] theorem State.setDreg_inputs (s : State) (n : RegNo) (v : Long) : (s.setDreg n v).inputs = s.inputs := rfl
@[simp] theorem State.setDreg_deviceResets (s : State) (n : RegNo) (v : Long) : (s.setDreg n v).deviceResets = s.deviceResets := rfl
@[simp] theorem State.setDreg_draws (s : State) (n : RegNo) (v : Long) : (s.setDreg n v).draws = s.draws := rfl

@[simp] theorem State.setDlow_a (s : State) (n : RegNo) (sz : Size) (v : BitVec sz.bits) : (s.setDlow n sz v).a = s.a := rfl
@[simp] theorem State.setDlow_usp (s : State) (n : RegNo) (sz : Size) (v : BitVec sz.bits) : (s.setDlow n sz v).usp = s.usp := rfl
@[simp] theorem State.setDlow_ssp (s : State) (n : RegNo) (sz : Size) (v : BitVec sz.bits) : (s.setDlow n sz v).ssp = s.ssp := rfl
@[simp] theorem State.setDlow_pc (s : State) (n : RegNo) (sz : Size) (v : BitVec sz.bits) : (s.setDlow n sz v).pc = s.pc := rfl
@[simp] theorem State.setDlow_sr (s : State) (n : RegNo) (sz : Size) (v : BitVec sz.bits) : (s.setDlow n sz v).sr = s.sr := rfl
@[simp] theorem State.setDlow_ir (s : State) (n : RegNo) (sz : Size) (v : BitVec sz.bits) : (s.setDlow n sz v).ir = s.ir := rfl
@[simp] theorem State.setDlow_run (s : State) (n : RegNo) (sz : Size) (v : BitVec sz.bits) : (s.setDlow n sz v).run = s.run := rfl
@[simp] theorem State.setDlow_ipl (s : State) (n : RegNo) (sz : Size) (v : BitVec sz.bits) : (s.setDlow n sz v).ipl = s.ipl := rfl
@[simp] theorem State.setDlow_nmiPending (s : State) (n : RegNo) (sz : Size) (v : BitVec sz.bits) : (s.setDlow n sz v).nmiPending = s.nmiPending := rfl
@[simp] theorem State.setDlow_tracePending (s : State) (n : RegNo) (sz : Size) (v : BitVec sz.bits) : (s.setDlow n sz v).tracePending = s.tracePending := rfl
@[simp] theorem State.setDlow_window (s : State) (n : RegNo) (sz : Size) (v : BitVec sz.bits) : (s.setDlow n sz v).window = s.window := rfl
@[simp] theorem State.setDlow_stale (s : State) (n : RegNo) (sz : Size) (v : BitVec sz.bits) : (s.setDlow n sz v).stale = s.stale := rfl
@[simp] theorem State.setDlow_mem (s : State) (n : RegNo) (sz : Size) (v : BitVec sz.bits) : (s.setDlow n sz v).mem = s.mem := rfl
@[simp] theorem State.setDlow_platform (s : State) (n : RegNo) (sz : Size) (v : BitVec sz.bits) : (s.setDlow n sz v).platform = s.platform := rfl
@[simp] theorem State.setDlow_resetIn (s : State) (n : RegNo) (sz : Size) (v : BitVec sz.bits) : (s.setDlow n sz v).resetIn = s.resetIn := rfl
@[simp] theorem State.setDlow_inputs (s : State) (n : RegNo) (sz : Size) (v : BitVec sz.bits) : (s.setDlow n sz v).inputs = s.inputs := rfl
@[simp] theorem State.setDlow_deviceResets (s : State) (n : RegNo) (sz : Size) (v : BitVec sz.bits) : (s.setDlow n sz v).deviceResets = s.deviceResets := rfl
@[simp] theorem State.setDlow_draws (s : State) (n : RegNo) (sz : Size) (v : BitVec sz.bits) : (s.setDlow n sz v).draws = s.draws := rfl

/-! `setCcr`, `writeSr`, `writeCcr`: SR only. -/

@[simp] theorem State.setCcr_d (s : State) (f : Ccr) : (s.setCcr f).d = s.d := rfl
@[simp] theorem State.setCcr_a (s : State) (f : Ccr) : (s.setCcr f).a = s.a := rfl
@[simp] theorem State.setCcr_usp (s : State) (f : Ccr) : (s.setCcr f).usp = s.usp := rfl
@[simp] theorem State.setCcr_ssp (s : State) (f : Ccr) : (s.setCcr f).ssp = s.ssp := rfl
@[simp] theorem State.setCcr_pc (s : State) (f : Ccr) : (s.setCcr f).pc = s.pc := rfl
@[simp] theorem State.setCcr_ir (s : State) (f : Ccr) : (s.setCcr f).ir = s.ir := rfl
@[simp] theorem State.setCcr_run (s : State) (f : Ccr) : (s.setCcr f).run = s.run := rfl
@[simp] theorem State.setCcr_ipl (s : State) (f : Ccr) : (s.setCcr f).ipl = s.ipl := rfl
@[simp] theorem State.setCcr_nmiPending (s : State) (f : Ccr) : (s.setCcr f).nmiPending = s.nmiPending := rfl
@[simp] theorem State.setCcr_tracePending (s : State) (f : Ccr) : (s.setCcr f).tracePending = s.tracePending := rfl
@[simp] theorem State.setCcr_window (s : State) (f : Ccr) : (s.setCcr f).window = s.window := rfl
@[simp] theorem State.setCcr_stale (s : State) (f : Ccr) : (s.setCcr f).stale = s.stale := rfl
@[simp] theorem State.setCcr_mem (s : State) (f : Ccr) : (s.setCcr f).mem = s.mem := rfl
@[simp] theorem State.setCcr_platform (s : State) (f : Ccr) : (s.setCcr f).platform = s.platform := rfl
@[simp] theorem State.setCcr_resetIn (s : State) (f : Ccr) : (s.setCcr f).resetIn = s.resetIn := rfl
@[simp] theorem State.setCcr_inputs (s : State) (f : Ccr) : (s.setCcr f).inputs = s.inputs := rfl
@[simp] theorem State.setCcr_deviceResets (s : State) (f : Ccr) : (s.setCcr f).deviceResets = s.deviceResets := rfl
@[simp] theorem State.setCcr_draws (s : State) (f : Ccr) : (s.setCcr f).draws = s.draws := rfl

@[simp] theorem State.writeSr_d (s : State) (w : Word) : (s.writeSr w).d = s.d := rfl
@[simp] theorem State.writeSr_a (s : State) (w : Word) : (s.writeSr w).a = s.a := rfl
@[simp] theorem State.writeSr_usp (s : State) (w : Word) : (s.writeSr w).usp = s.usp := rfl
@[simp] theorem State.writeSr_ssp (s : State) (w : Word) : (s.writeSr w).ssp = s.ssp := rfl
@[simp] theorem State.writeSr_pc (s : State) (w : Word) : (s.writeSr w).pc = s.pc := rfl
@[simp] theorem State.writeSr_ir (s : State) (w : Word) : (s.writeSr w).ir = s.ir := rfl
@[simp] theorem State.writeSr_run (s : State) (w : Word) : (s.writeSr w).run = s.run := rfl
@[simp] theorem State.writeSr_ipl (s : State) (w : Word) : (s.writeSr w).ipl = s.ipl := rfl
@[simp] theorem State.writeSr_nmiPending (s : State) (w : Word) : (s.writeSr w).nmiPending = s.nmiPending := rfl
@[simp] theorem State.writeSr_tracePending (s : State) (w : Word) : (s.writeSr w).tracePending = s.tracePending := rfl
@[simp] theorem State.writeSr_window (s : State) (w : Word) : (s.writeSr w).window = s.window := rfl
@[simp] theorem State.writeSr_stale (s : State) (w : Word) : (s.writeSr w).stale = s.stale := rfl
@[simp] theorem State.writeSr_mem (s : State) (w : Word) : (s.writeSr w).mem = s.mem := rfl
@[simp] theorem State.writeSr_platform (s : State) (w : Word) : (s.writeSr w).platform = s.platform := rfl
@[simp] theorem State.writeSr_resetIn (s : State) (w : Word) : (s.writeSr w).resetIn = s.resetIn := rfl
@[simp] theorem State.writeSr_inputs (s : State) (w : Word) : (s.writeSr w).inputs = s.inputs := rfl
@[simp] theorem State.writeSr_deviceResets (s : State) (w : Word) : (s.writeSr w).deviceResets = s.deviceResets := rfl
@[simp] theorem State.writeSr_draws (s : State) (w : Word) : (s.writeSr w).draws = s.draws := rfl
@[simp] theorem State.writeSr_sr (s : State) (w : Word) : (s.writeSr w).sr = w &&& srMask := rfl

@[simp] theorem State.writeCcr_d (s : State) (w : Word) : (s.writeCcr w).d = s.d := rfl
@[simp] theorem State.writeCcr_a (s : State) (w : Word) : (s.writeCcr w).a = s.a := rfl
@[simp] theorem State.writeCcr_usp (s : State) (w : Word) : (s.writeCcr w).usp = s.usp := rfl
@[simp] theorem State.writeCcr_ssp (s : State) (w : Word) : (s.writeCcr w).ssp = s.ssp := rfl
@[simp] theorem State.writeCcr_pc (s : State) (w : Word) : (s.writeCcr w).pc = s.pc := rfl
@[simp] theorem State.writeCcr_ir (s : State) (w : Word) : (s.writeCcr w).ir = s.ir := rfl
@[simp] theorem State.writeCcr_run (s : State) (w : Word) : (s.writeCcr w).run = s.run := rfl
@[simp] theorem State.writeCcr_ipl (s : State) (w : Word) : (s.writeCcr w).ipl = s.ipl := rfl
@[simp] theorem State.writeCcr_nmiPending (s : State) (w : Word) : (s.writeCcr w).nmiPending = s.nmiPending := rfl
@[simp] theorem State.writeCcr_tracePending (s : State) (w : Word) : (s.writeCcr w).tracePending = s.tracePending := rfl
@[simp] theorem State.writeCcr_window (s : State) (w : Word) : (s.writeCcr w).window = s.window := rfl
@[simp] theorem State.writeCcr_stale (s : State) (w : Word) : (s.writeCcr w).stale = s.stale := rfl
@[simp] theorem State.writeCcr_mem (s : State) (w : Word) : (s.writeCcr w).mem = s.mem := rfl
@[simp] theorem State.writeCcr_platform (s : State) (w : Word) : (s.writeCcr w).platform = s.platform := rfl
@[simp] theorem State.writeCcr_resetIn (s : State) (w : Word) : (s.writeCcr w).resetIn = s.resetIn := rfl
@[simp] theorem State.writeCcr_inputs (s : State) (w : Word) : (s.writeCcr w).inputs = s.inputs := rfl
@[simp] theorem State.writeCcr_deviceResets (s : State) (w : Word) : (s.writeCcr w).deviceResets = s.deviceResets := rfl
@[simp] theorem State.writeCcr_draws (s : State) (w : Word) : (s.writeCcr w).draws = s.draws := rfl

/-! `jump`: PC, and the prefetched words. -/

@[simp] theorem State.jump_d (s : State) (t : Long) : (s.jump t).d = s.d := rfl
@[simp] theorem State.jump_a (s : State) (t : Long) : (s.jump t).a = s.a := rfl
@[simp] theorem State.jump_usp (s : State) (t : Long) : (s.jump t).usp = s.usp := rfl
@[simp] theorem State.jump_ssp (s : State) (t : Long) : (s.jump t).ssp = s.ssp := rfl
@[simp] theorem State.jump_sr (s : State) (t : Long) : (s.jump t).sr = s.sr := rfl
@[simp] theorem State.jump_ir (s : State) (t : Long) : (s.jump t).ir = s.ir := rfl
@[simp] theorem State.jump_run (s : State) (t : Long) : (s.jump t).run = s.run := rfl
@[simp] theorem State.jump_ipl (s : State) (t : Long) : (s.jump t).ipl = s.ipl := rfl
@[simp] theorem State.jump_nmiPending (s : State) (t : Long) : (s.jump t).nmiPending = s.nmiPending := rfl
@[simp] theorem State.jump_tracePending (s : State) (t : Long) : (s.jump t).tracePending = s.tracePending := rfl
@[simp] theorem State.jump_window (s : State) (t : Long) : (s.jump t).window = s.window := rfl
@[simp] theorem State.jump_mem (s : State) (t : Long) : (s.jump t).mem = s.mem := rfl
@[simp] theorem State.jump_platform (s : State) (t : Long) : (s.jump t).platform = s.platform := rfl
@[simp] theorem State.jump_resetIn (s : State) (t : Long) : (s.jump t).resetIn = s.resetIn := rfl
@[simp] theorem State.jump_inputs (s : State) (t : Long) : (s.jump t).inputs = s.inputs := rfl
@[simp] theorem State.jump_deviceResets (s : State) (t : Long) : (s.jump t).deviceResets = s.deviceResets := rfl
@[simp] theorem State.jump_draws (s : State) (t : Long) : (s.jump t).draws = s.draws := rfl
@[simp] theorem State.jump_pc (s : State) (t : Long) : (s.jump t).pc = t := rfl
@[simp] theorem State.jump_stale (s : State) (t : Long) : (s.jump t).stale = [] := rfl

/-! `raised`: SR and the run state. -/

@[simp] theorem State.raised_d (s : State) (l : Option (BitVec 3)) : (s.raised l).d = s.d := rfl
@[simp] theorem State.raised_a (s : State) (l : Option (BitVec 3)) : (s.raised l).a = s.a := rfl
@[simp] theorem State.raised_usp (s : State) (l : Option (BitVec 3)) : (s.raised l).usp = s.usp := rfl
@[simp] theorem State.raised_ssp (s : State) (l : Option (BitVec 3)) : (s.raised l).ssp = s.ssp := rfl
@[simp] theorem State.raised_pc (s : State) (l : Option (BitVec 3)) : (s.raised l).pc = s.pc := rfl
@[simp] theorem State.raised_ir (s : State) (l : Option (BitVec 3)) : (s.raised l).ir = s.ir := rfl
@[simp] theorem State.raised_ipl (s : State) (l : Option (BitVec 3)) : (s.raised l).ipl = s.ipl := rfl
@[simp] theorem State.raised_nmiPending (s : State) (l : Option (BitVec 3)) : (s.raised l).nmiPending = s.nmiPending := rfl
@[simp] theorem State.raised_tracePending (s : State) (l : Option (BitVec 3)) : (s.raised l).tracePending = s.tracePending := rfl
@[simp] theorem State.raised_window (s : State) (l : Option (BitVec 3)) : (s.raised l).window = s.window := rfl
@[simp] theorem State.raised_stale (s : State) (l : Option (BitVec 3)) : (s.raised l).stale = s.stale := rfl
@[simp] theorem State.raised_mem (s : State) (l : Option (BitVec 3)) : (s.raised l).mem = s.mem := rfl
@[simp] theorem State.raised_platform (s : State) (l : Option (BitVec 3)) : (s.raised l).platform = s.platform := rfl
@[simp] theorem State.raised_resetIn (s : State) (l : Option (BitVec 3)) : (s.raised l).resetIn = s.resetIn := rfl
@[simp] theorem State.raised_inputs (s : State) (l : Option (BitVec 3)) : (s.raised l).inputs = s.inputs := rfl
@[simp] theorem State.raised_deviceResets (s : State) (l : Option (BitVec 3)) : (s.raised l).deviceResets = s.deviceResets := rfl
@[simp] theorem State.raised_draws (s : State) (l : Option (BitVec 3)) : (s.raised l).draws = s.draws := rfl
@[simp] theorem State.raised_sr (s : State) (l : Option (BitVec 3)) : (s.raised l).sr = entrySr s.sr l := rfl
@[simp] theorem State.raised_run (s : State) (l : Option (BitVec 3)) : (s.raised l).run = .running := rfl

/-! `setAreg`: one of A, USP, SSP. -/

@[simp] theorem State.setAreg_d (s : State) (n : RegNo) (v : Long) : (s.setAreg n v).d = s.d := by
  unfold State.setAreg; split <;> [rfl; split <;> rfl]
@[simp] theorem State.setAreg_pc (s : State) (n : RegNo) (v : Long) : (s.setAreg n v).pc = s.pc := by
  unfold State.setAreg; split <;> [rfl; split <;> rfl]
@[simp] theorem State.setAreg_sr (s : State) (n : RegNo) (v : Long) : (s.setAreg n v).sr = s.sr := by
  unfold State.setAreg; split <;> [rfl; split <;> rfl]
@[simp] theorem State.setAreg_ir (s : State) (n : RegNo) (v : Long) : (s.setAreg n v).ir = s.ir := by
  unfold State.setAreg; split <;> [rfl; split <;> rfl]
@[simp] theorem State.setAreg_run (s : State) (n : RegNo) (v : Long) : (s.setAreg n v).run = s.run := by
  unfold State.setAreg; split <;> [rfl; split <;> rfl]
@[simp] theorem State.setAreg_ipl (s : State) (n : RegNo) (v : Long) : (s.setAreg n v).ipl = s.ipl := by
  unfold State.setAreg; split <;> [rfl; split <;> rfl]
@[simp] theorem State.setAreg_nmiPending (s : State) (n : RegNo) (v : Long) : (s.setAreg n v).nmiPending = s.nmiPending := by
  unfold State.setAreg; split <;> [rfl; split <;> rfl]
@[simp] theorem State.setAreg_tracePending (s : State) (n : RegNo) (v : Long) : (s.setAreg n v).tracePending = s.tracePending := by
  unfold State.setAreg; split <;> [rfl; split <;> rfl]
@[simp] theorem State.setAreg_window (s : State) (n : RegNo) (v : Long) : (s.setAreg n v).window = s.window := by
  unfold State.setAreg; split <;> [rfl; split <;> rfl]
@[simp] theorem State.setAreg_stale (s : State) (n : RegNo) (v : Long) : (s.setAreg n v).stale = s.stale := by
  unfold State.setAreg; split <;> [rfl; split <;> rfl]
@[simp] theorem State.setAreg_mem (s : State) (n : RegNo) (v : Long) : (s.setAreg n v).mem = s.mem := by
  unfold State.setAreg; split <;> [rfl; split <;> rfl]
@[simp] theorem State.setAreg_platform (s : State) (n : RegNo) (v : Long) : (s.setAreg n v).platform = s.platform := by
  unfold State.setAreg; split <;> [rfl; split <;> rfl]
@[simp] theorem State.setAreg_resetIn (s : State) (n : RegNo) (v : Long) : (s.setAreg n v).resetIn = s.resetIn := by
  unfold State.setAreg; split <;> [rfl; split <;> rfl]
@[simp] theorem State.setAreg_inputs (s : State) (n : RegNo) (v : Long) : (s.setAreg n v).inputs = s.inputs := by
  unfold State.setAreg; split <;> [rfl; split <;> rfl]
@[simp] theorem State.setAreg_deviceResets (s : State) (n : RegNo) (v : Long) : (s.setAreg n v).deviceResets = s.deviceResets := by
  unfold State.setAreg; split <;> [rfl; split <;> rfl]
@[simp] theorem State.setAreg_draws (s : State) (n : RegNo) (v : Long) : (s.setAreg n v).draws = s.draws := by
  unfold State.setAreg; split <;> [rfl; split <;> rfl]

/-! `noted`, `storeByte`, `storeWord`, `store`: memory and the noted words. -/

@[simp] theorem State.noted_d (s : State) (fc : BitVec 3) (a : Long) : (s.noted fc a).d = s.d := by
  unfold State.noted; split <;> rfl
@[simp] theorem State.noted_a (s : State) (fc : BitVec 3) (a : Long) : (s.noted fc a).a = s.a := by
  unfold State.noted; split <;> rfl
@[simp] theorem State.noted_usp (s : State) (fc : BitVec 3) (a : Long) : (s.noted fc a).usp = s.usp := by
  unfold State.noted; split <;> rfl
@[simp] theorem State.noted_ssp (s : State) (fc : BitVec 3) (a : Long) : (s.noted fc a).ssp = s.ssp := by
  unfold State.noted; split <;> rfl
@[simp] theorem State.noted_pc (s : State) (fc : BitVec 3) (a : Long) : (s.noted fc a).pc = s.pc := by
  unfold State.noted; split <;> rfl
@[simp] theorem State.noted_sr (s : State) (fc : BitVec 3) (a : Long) : (s.noted fc a).sr = s.sr := by
  unfold State.noted; split <;> rfl
@[simp] theorem State.noted_ir (s : State) (fc : BitVec 3) (a : Long) : (s.noted fc a).ir = s.ir := by
  unfold State.noted; split <;> rfl
@[simp] theorem State.noted_run (s : State) (fc : BitVec 3) (a : Long) : (s.noted fc a).run = s.run := by
  unfold State.noted; split <;> rfl
@[simp] theorem State.noted_ipl (s : State) (fc : BitVec 3) (a : Long) : (s.noted fc a).ipl = s.ipl := by
  unfold State.noted; split <;> rfl
@[simp] theorem State.noted_nmiPending (s : State) (fc : BitVec 3) (a : Long) : (s.noted fc a).nmiPending = s.nmiPending := by
  unfold State.noted; split <;> rfl
@[simp] theorem State.noted_tracePending (s : State) (fc : BitVec 3) (a : Long) : (s.noted fc a).tracePending = s.tracePending := by
  unfold State.noted; split <;> rfl
@[simp] theorem State.noted_window (s : State) (fc : BitVec 3) (a : Long) : (s.noted fc a).window = s.window := by
  unfold State.noted; split <;> rfl
@[simp] theorem State.noted_mem (s : State) (fc : BitVec 3) (a : Long) : (s.noted fc a).mem = s.mem := by
  unfold State.noted; split <;> rfl
@[simp] theorem State.noted_platform (s : State) (fc : BitVec 3) (a : Long) : (s.noted fc a).platform = s.platform := by
  unfold State.noted; split <;> rfl
@[simp] theorem State.noted_resetIn (s : State) (fc : BitVec 3) (a : Long) : (s.noted fc a).resetIn = s.resetIn := by
  unfold State.noted; split <;> rfl
@[simp] theorem State.noted_inputs (s : State) (fc : BitVec 3) (a : Long) : (s.noted fc a).inputs = s.inputs := by
  unfold State.noted; split <;> rfl
@[simp] theorem State.noted_deviceResets (s : State) (fc : BitVec 3) (a : Long) : (s.noted fc a).deviceResets = s.deviceResets := by
  unfold State.noted; split <;> rfl
@[simp] theorem State.noted_draws (s : State) (fc : BitVec 3) (a : Long) : (s.noted fc a).draws = s.draws := by
  unfold State.noted; split <;> rfl

@[simp] theorem State.storeByte_d (s : State) (fc : BitVec 3) (a : Long) (v : Byte) : (s.storeByte fc a v).d = s.d :=
  State.noted_d s fc a
@[simp] theorem State.storeByte_a (s : State) (fc : BitVec 3) (a : Long) (v : Byte) : (s.storeByte fc a v).a = s.a :=
  State.noted_a s fc a
@[simp] theorem State.storeByte_usp (s : State) (fc : BitVec 3) (a : Long) (v : Byte) : (s.storeByte fc a v).usp = s.usp :=
  State.noted_usp s fc a
@[simp] theorem State.storeByte_ssp (s : State) (fc : BitVec 3) (a : Long) (v : Byte) : (s.storeByte fc a v).ssp = s.ssp :=
  State.noted_ssp s fc a
@[simp] theorem State.storeByte_pc (s : State) (fc : BitVec 3) (a : Long) (v : Byte) : (s.storeByte fc a v).pc = s.pc :=
  State.noted_pc s fc a
@[simp] theorem State.storeByte_sr (s : State) (fc : BitVec 3) (a : Long) (v : Byte) : (s.storeByte fc a v).sr = s.sr :=
  State.noted_sr s fc a
@[simp] theorem State.storeByte_ir (s : State) (fc : BitVec 3) (a : Long) (v : Byte) : (s.storeByte fc a v).ir = s.ir :=
  State.noted_ir s fc a
@[simp] theorem State.storeByte_run (s : State) (fc : BitVec 3) (a : Long) (v : Byte) : (s.storeByte fc a v).run = s.run :=
  State.noted_run s fc a
@[simp] theorem State.storeByte_ipl (s : State) (fc : BitVec 3) (a : Long) (v : Byte) : (s.storeByte fc a v).ipl = s.ipl :=
  State.noted_ipl s fc a
@[simp] theorem State.storeByte_nmiPending (s : State) (fc : BitVec 3) (a : Long) (v : Byte) : (s.storeByte fc a v).nmiPending = s.nmiPending :=
  State.noted_nmiPending s fc a
@[simp] theorem State.storeByte_tracePending (s : State) (fc : BitVec 3) (a : Long) (v : Byte) : (s.storeByte fc a v).tracePending = s.tracePending :=
  State.noted_tracePending s fc a
@[simp] theorem State.storeByte_window (s : State) (fc : BitVec 3) (a : Long) (v : Byte) : (s.storeByte fc a v).window = s.window :=
  State.noted_window s fc a
@[simp] theorem State.storeByte_platform (s : State) (fc : BitVec 3) (a : Long) (v : Byte) : (s.storeByte fc a v).platform = s.platform :=
  State.noted_platform s fc a
@[simp] theorem State.storeByte_resetIn (s : State) (fc : BitVec 3) (a : Long) (v : Byte) : (s.storeByte fc a v).resetIn = s.resetIn :=
  State.noted_resetIn s fc a
@[simp] theorem State.storeByte_inputs (s : State) (fc : BitVec 3) (a : Long) (v : Byte) : (s.storeByte fc a v).inputs = s.inputs :=
  State.noted_inputs s fc a
@[simp] theorem State.storeByte_deviceResets (s : State) (fc : BitVec 3) (a : Long) (v : Byte) : (s.storeByte fc a v).deviceResets = s.deviceResets :=
  State.noted_deviceResets s fc a
@[simp] theorem State.storeByte_draws (s : State) (fc : BitVec 3) (a : Long) (v : Byte) : (s.storeByte fc a v).draws = s.draws :=
  State.noted_draws s fc a

@[simp] theorem State.storeWord_d (s : State) (fc : BitVec 3) (a : Long) (v : Word) : (s.storeWord fc a v).d = s.d :=
  State.noted_d s fc a
@[simp] theorem State.storeWord_a (s : State) (fc : BitVec 3) (a : Long) (v : Word) : (s.storeWord fc a v).a = s.a :=
  State.noted_a s fc a
@[simp] theorem State.storeWord_usp (s : State) (fc : BitVec 3) (a : Long) (v : Word) : (s.storeWord fc a v).usp = s.usp :=
  State.noted_usp s fc a
@[simp] theorem State.storeWord_ssp (s : State) (fc : BitVec 3) (a : Long) (v : Word) : (s.storeWord fc a v).ssp = s.ssp :=
  State.noted_ssp s fc a
@[simp] theorem State.storeWord_pc (s : State) (fc : BitVec 3) (a : Long) (v : Word) : (s.storeWord fc a v).pc = s.pc :=
  State.noted_pc s fc a
@[simp] theorem State.storeWord_sr (s : State) (fc : BitVec 3) (a : Long) (v : Word) : (s.storeWord fc a v).sr = s.sr :=
  State.noted_sr s fc a
@[simp] theorem State.storeWord_ir (s : State) (fc : BitVec 3) (a : Long) (v : Word) : (s.storeWord fc a v).ir = s.ir :=
  State.noted_ir s fc a
@[simp] theorem State.storeWord_run (s : State) (fc : BitVec 3) (a : Long) (v : Word) : (s.storeWord fc a v).run = s.run :=
  State.noted_run s fc a
@[simp] theorem State.storeWord_ipl (s : State) (fc : BitVec 3) (a : Long) (v : Word) : (s.storeWord fc a v).ipl = s.ipl :=
  State.noted_ipl s fc a
@[simp] theorem State.storeWord_nmiPending (s : State) (fc : BitVec 3) (a : Long) (v : Word) : (s.storeWord fc a v).nmiPending = s.nmiPending :=
  State.noted_nmiPending s fc a
@[simp] theorem State.storeWord_tracePending (s : State) (fc : BitVec 3) (a : Long) (v : Word) : (s.storeWord fc a v).tracePending = s.tracePending :=
  State.noted_tracePending s fc a
@[simp] theorem State.storeWord_window (s : State) (fc : BitVec 3) (a : Long) (v : Word) : (s.storeWord fc a v).window = s.window :=
  State.noted_window s fc a
@[simp] theorem State.storeWord_platform (s : State) (fc : BitVec 3) (a : Long) (v : Word) : (s.storeWord fc a v).platform = s.platform :=
  State.noted_platform s fc a
@[simp] theorem State.storeWord_resetIn (s : State) (fc : BitVec 3) (a : Long) (v : Word) : (s.storeWord fc a v).resetIn = s.resetIn :=
  State.noted_resetIn s fc a
@[simp] theorem State.storeWord_inputs (s : State) (fc : BitVec 3) (a : Long) (v : Word) : (s.storeWord fc a v).inputs = s.inputs :=
  State.noted_inputs s fc a
@[simp] theorem State.storeWord_deviceResets (s : State) (fc : BitVec 3) (a : Long) (v : Word) : (s.storeWord fc a v).deviceResets = s.deviceResets :=
  State.noted_deviceResets s fc a
@[simp] theorem State.storeWord_draws (s : State) (fc : BitVec 3) (a : Long) (v : Word) : (s.storeWord fc a v).draws = s.draws :=
  State.noted_draws s fc a

@[simp] theorem State.store_d (s : State) (fc : BitVec 3) (a : Long) (sz : Size) (v : BitVec sz.bits) :
    (s.store fc a sz v).d = s.d := by
  cases sz <;> simp [State.store]
@[simp] theorem State.store_a (s : State) (fc : BitVec 3) (a : Long) (sz : Size) (v : BitVec sz.bits) :
    (s.store fc a sz v).a = s.a := by
  cases sz <;> simp [State.store]
@[simp] theorem State.store_usp (s : State) (fc : BitVec 3) (a : Long) (sz : Size) (v : BitVec sz.bits) :
    (s.store fc a sz v).usp = s.usp := by
  cases sz <;> simp [State.store]
@[simp] theorem State.store_ssp (s : State) (fc : BitVec 3) (a : Long) (sz : Size) (v : BitVec sz.bits) :
    (s.store fc a sz v).ssp = s.ssp := by
  cases sz <;> simp [State.store]
@[simp] theorem State.store_pc (s : State) (fc : BitVec 3) (a : Long) (sz : Size) (v : BitVec sz.bits) :
    (s.store fc a sz v).pc = s.pc := by
  cases sz <;> simp [State.store]
@[simp] theorem State.store_sr (s : State) (fc : BitVec 3) (a : Long) (sz : Size) (v : BitVec sz.bits) :
    (s.store fc a sz v).sr = s.sr := by
  cases sz <;> simp [State.store]
@[simp] theorem State.store_ir (s : State) (fc : BitVec 3) (a : Long) (sz : Size) (v : BitVec sz.bits) :
    (s.store fc a sz v).ir = s.ir := by
  cases sz <;> simp [State.store]
@[simp] theorem State.store_run (s : State) (fc : BitVec 3) (a : Long) (sz : Size) (v : BitVec sz.bits) :
    (s.store fc a sz v).run = s.run := by
  cases sz <;> simp [State.store]
@[simp] theorem State.store_ipl (s : State) (fc : BitVec 3) (a : Long) (sz : Size) (v : BitVec sz.bits) :
    (s.store fc a sz v).ipl = s.ipl := by
  cases sz <;> simp [State.store]
@[simp] theorem State.store_nmiPending (s : State) (fc : BitVec 3) (a : Long) (sz : Size) (v : BitVec sz.bits) :
    (s.store fc a sz v).nmiPending = s.nmiPending := by
  cases sz <;> simp [State.store]
@[simp] theorem State.store_tracePending (s : State) (fc : BitVec 3) (a : Long) (sz : Size) (v : BitVec sz.bits) :
    (s.store fc a sz v).tracePending = s.tracePending := by
  cases sz <;> simp [State.store]
@[simp] theorem State.store_window (s : State) (fc : BitVec 3) (a : Long) (sz : Size) (v : BitVec sz.bits) :
    (s.store fc a sz v).window = s.window := by
  cases sz <;> simp [State.store]
@[simp] theorem State.store_platform (s : State) (fc : BitVec 3) (a : Long) (sz : Size) (v : BitVec sz.bits) :
    (s.store fc a sz v).platform = s.platform := by
  cases sz <;> simp [State.store]
@[simp] theorem State.store_resetIn (s : State) (fc : BitVec 3) (a : Long) (sz : Size) (v : BitVec sz.bits) :
    (s.store fc a sz v).resetIn = s.resetIn := by
  cases sz <;> simp [State.store]
@[simp] theorem State.store_inputs (s : State) (fc : BitVec 3) (a : Long) (sz : Size) (v : BitVec sz.bits) :
    (s.store fc a sz v).inputs = s.inputs := by
  cases sz <;> simp [State.store]
@[simp] theorem State.store_deviceResets (s : State) (fc : BitVec 3) (a : Long) (sz : Size) (v : BitVec sz.bits) :
    (s.store fc a sz v).deviceResets = s.deviceResets := by
  cases sz <;> simp [State.store]
@[simp] theorem State.store_draws (s : State) (fc : BitVec 3) (a : Long) (sz : Size) (v : BitVec sz.bits) :
    (s.store fc a sz v).draws = s.draws := by
  cases sz <;> simp [State.store]

/-! Views that depend on single fields. -/

theorem State.supervisor_congr {s t : State} (h : t.sr = s.sr) : t.supervisor = s.supervisor := by
  simp [State.supervisor, h]

theorem State.dreg_congr {s t : State} (h : t.d = s.d) (n : RegNo) : t.dreg n = s.dreg n := by
  simp [State.dreg, h]

theorem State.areg_congr {s t : State} (ha : t.a = s.a) (hu : t.usp = s.usp) (hs : t.ssp = s.ssp)
    (hsup : t.supervisor = s.supervisor) (n : RegNo) : t.areg n = s.areg n := by
  simp [State.areg, ha, hu, hs, hsup]

@[simp] theorem State.setDreg_dreg_same (s : State) (n : RegNo) (v : Long) : (s.setDreg n v).dreg n = v := by
  simp [State.dreg, State.setDreg]

theorem State.setDreg_dreg_other (s : State) {n m : RegNo} (v : Long) (h : m ≠ n) :
    (s.setDreg n v).dreg m = s.dreg m := by
  have : (n : Nat) ≠ m := fun e => h (Fin.ext e.symm)
  simp [State.dreg, State.setDreg, this]

@[simp] theorem State.setDlow_dreg_same (s : State) (n : RegNo) (sz : Size) (v : BitVec sz.bits) :
    (s.setDlow n sz v).dreg n = insertLow sz (s.dreg n) v := by
  simp [State.setDlow]

theorem State.setDlow_dreg_other (s : State) {n m : RegNo} (sz : Size) (v : BitVec sz.bits) (h : m ≠ n) :
    (s.setDlow n sz v).dreg m = s.dreg m := State.setDreg_dreg_other s _ h

@[simp] theorem State.setDreg_areg (s : State) (n m : RegNo) (v : Long) : (s.setDreg n v).areg m = s.areg m := rfl

@[simp] theorem State.setDlow_areg (s : State) (n m : RegNo) (sz : Size) (v : BitVec sz.bits) :
    (s.setDlow n sz v).areg m = s.areg m := rfl

@[simp] theorem State.setDreg_supervisor (s : State) (n : RegNo) (v : Long) :
    (s.setDreg n v).supervisor = s.supervisor := rfl

@[simp] theorem State.setAreg_supervisor (s : State) (n : RegNo) (v : Long) :
    (s.setAreg n v).supervisor = s.supervisor := by simp [State.supervisor]

@[simp] theorem State.setAreg_dreg (s : State) (n m : RegNo) (v : Long) : (s.setAreg n v).dreg m = s.dreg m := by
  simp [State.dreg]

@[simp] theorem State.setAreg_areg_same (s : State) (n : RegNo) (v : Long) : (s.setAreg n v).areg n = v := by
  by_cases h : n.val < 7
  · simp [State.areg, State.setAreg, h]
  · cases hs : s.supervisor <;> simp [State.areg, State.setAreg, h, State.supervisor] <;>
      simp_all [State.supervisor]

theorem State.setAreg_areg_other (s : State) {n m : RegNo} (v : Long) (h : m ≠ n) :
    (s.setAreg n v).areg m = s.areg m := by
  have hnm : (n : Nat) ≠ m := fun e => h (Fin.ext e.symm)
  by_cases h7 : n.val < 7
  · by_cases hm : m.val < 7
    · simp [State.areg, State.setAreg, h7, hm, hnm]
    · simp [State.areg, State.setAreg, h7, hm, State.supervisor]
  · have hm : m.val < 7 := by omega
    cases hs : s.supervisor <;> simp [State.areg, State.setAreg, h7, hm, hs]

/-- The stack pointer of the mode that is not the current one. -/
def State.otherSp (s : State) : Long := if s.supervisor then s.usp else s.ssp

theorem State.setAreg_otherSp (s : State) (n : RegNo) (v : Long) : (s.setAreg n v).otherSp = s.otherSp := by
  by_cases h7 : n.val < 7
  · simp [State.otherSp, State.setAreg, h7, State.supervisor]
  · cases hs : s.supervisor <;> simp [State.otherSp, State.setAreg, h7, State.supervisor] <;>
      simp_all [State.supervisor]

/-! The condition codes. -/

/-- The five condition codes as a bit vector. -/
def ccrBits (f : Ccr) : BitVec 5 :=
  BitVec.ofBool f.x ++ (BitVec.ofBool f.n ++ (BitVec.ofBool f.z ++ (BitVec.ofBool f.v ++ BitVec.ofBool f.c)))

theorem withCcr_getLsbD (w : Word) (f : Ccr) (i : Nat) :
    (withCcr w f).getLsbD i = if i < 5 then (ccrBits f).getLsbD i else (w.extractLsb' 5 11).getLsbD (i - 5) :=
  BitVec.getLsbD_append (x := w.extractLsb' 5 11) (y := ccrBits f)

theorem ccrOf_withCcr (w : Word) (f : Ccr) : ccrOf (withCcr w f) = f := by
  simp only [ccrOf, withCcr_getLsbD]
  obtain ⟨x, n, z, v, c⟩ := f
  cases x <;> cases n <;> cases z <;> cases v <;> cases c <;> rfl

@[simp] theorem State.setCcr_ccr (s : State) (f : Ccr) : (s.setCcr f).ccr = f := ccrOf_withCcr s.sr f

theorem withCcr_high (w : Word) (f : Ccr) (i : Nat) (h : 5 ≤ i) : (withCcr w f).getLsbD i = w.getLsbD i := by
  rw [withCcr_getLsbD, if_neg (by omega), BitVec.getLsbD_extractLsb']
  by_cases hi : i < 16
  · rw [show 5 + (i - 5) = i by omega]; simp; omega
  · rw [BitVec.getLsbD_of_ge w i (by omega)]; simp; omega

theorem withCcr_system (w : Word) (f : Ccr) : (withCcr w f).extractLsb' 5 11 = w.extractLsb' 5 11 := by
  apply BitVec.eq_of_getLsbD_eq
  intro i hi
  simp only [BitVec.getLsbD_extractLsb', withCcr_high w f (5 + i) (by omega)]

@[simp] theorem State.setCcr_supervisor (s : State) (f : Ccr) : (s.setCcr f).supervisor = s.supervisor :=
  withCcr_high s.sr f 13 (by omega)

@[simp] theorem State.setCcr_dataFc (s : State) (f : Ccr) : (s.setCcr f).dataFc = s.dataFc := by
  simp [State.dataFc]

@[simp] theorem State.setCcr_progFc (s : State) (f : Ccr) : (s.setCcr f).progFc = s.progFc := by
  simp [State.progFc]

@[simp] theorem State.setCcr_dreg (s : State) (f : Ccr) (n : RegNo) : (s.setCcr f).dreg n = s.dreg n := rfl

@[simp] theorem State.setCcr_areg (s : State) (f : Ccr) (n : RegNo) : (s.setCcr f).areg n = s.areg n :=
  State.areg_congr (s := s) (t := s.setCcr f) rfl rfl rfl (State.setCcr_supervisor s f) n

/-! The platform's answers and the cells behind an address depend on the platform's parameters only. -/

theorem State.region_congr {s t : State} (h : t.platform = s.platform) (fc : BitVec 3) (a : Long) :
    t.region fc a = s.region fc a := by
  simp [State.region, h]

theorem State.regionReply_congr {s t : State} (h : t.platform = s.platform) (fc : BitVec 3) (a : Long) (r : Bool) :
    t.regionReply fc a r = s.regionReply fc a r := by
  simp [State.regionReply, State.region_congr h]

theorem State.answer_congr {s t : State} (h : t.platform = s.platform) (cyc : Cycle) : t.answer cyc = s.answer cyc := by
  simp [State.answer, State.response, h, State.regionReply_congr h]

theorem State.retries_congr {s t : State} (h : t.platform = s.platform) (cyc : Cycle) :
    t.retries cyc = s.retries cyc := by
  simp [State.retries, State.response, h]

theorem State.cell_congr {s t : State} (h : t.platform = s.platform) (fc : BitVec 3) (a : Long) :
    t.cell fc a = s.cell fc a := by
  simp [State.cell, State.region_congr h]

theorem State.readable_congr {s t : State} (h : t.platform = s.platform) (hr : t.resetIn = s.resetIn) (fc : BitVec 3)
    (a : Long) (w : Bool) : t.readable fc a w = s.readable fc a w := by
  simp [State.readable, State.answer_congr h, hr]

theorem State.storable_congr {s t : State} (h : t.platform = s.platform) (hr : t.resetIn = s.resetIn) (fc : BitVec 3)
    (a : Long) (w : Bool) : t.storable fc a w = s.storable fc a w := by
  simp [State.storable, State.regionReply_congr h, hr, h]

theorem State.canRead_congr {s t : State} (h : t.platform = s.platform) (hr : t.resetIn = s.resetIn) (fc : BitVec 3)
    (a : Long) (sz : Size) : t.canRead fc a sz = s.canRead fc a sz := by
  cases sz <;> simp [State.canRead, State.readable_congr h hr]

theorem State.canStore_congr {s t : State} (h : t.platform = s.platform) (hr : t.resetIn = s.resetIn) (fc : BitVec 3)
    (a : Long) (sz : Size) : t.canStore fc a sz = s.canStore fc a sz := by
  cases sz <;> simp [State.canStore, State.storable_congr h hr]

theorem State.load_congr {s t : State} (h : t.platform = s.platform) (hm : t.mem = s.mem) (fc : BitVec 3) (a : Long)
    (sz : Size) : t.load fc a sz = s.load fc a sz := by
  cases sz <;> simp [State.load, State.byteAt, State.wordAt, State.cell_congr h, hm]

end Sys2Proof.Machine
end

