-- ==== Sys2Proof/Laws/Monad.lean ====
section
/-! SUPPORT. How the computations that may be cut off run: one lemma per combinator. -/

namespace Sys2Proof.Machine

@[simp] theorem run_pure {α : Type} (a : α) (s : State) : (pure a : M α) s = .ok a s := rfl

@[simp] theorem run_look {α : Type} (f : State → α) (s : State) : look f s = .ok (f s) s := rfl

@[simp] theorem run_update (f : State → State) (s : State) : update f s = .ok () (f s) := rfl

@[simp] theorem run_abort {α : Type} (x : Abort) (s : State) : (abort x : M α) s = .error x s := rfl

@[simp] theorem run_draw (s : State) : draw s = .ok (Config.free s.draws) { s with draws := s.draws + 1 } := rfl

theorem run_bind {α β : Type} (m : M α) (f : α → M β) (s : State) :
    (m >>= f) s = match m s with | .ok a s' => f a s' | .error e s' => .error e s' := by
  show EStateM.bind m f s = _
  unfold EStateM.bind
  cases m s <;> rfl

theorem run_bind_ok {α β : Type} {m : M α} {f : α → M β} {s s' : State} {a : α} (h : m s = .ok a s') :
    (m >>= f) s = f a s' := by rw [run_bind, h]

theorem run_bind_error {α β : Type} {m : M α} {f : α → M β} {s s' : State} {e : Abort} (h : m s = .error e s') :
    (m >>= f) s = .error e s' := by rw [run_bind, h]

@[simp] theorem run_pure_bind {α β : Type} (a : α) (f : α → M β) (s : State) : (pure a >>= f) s = f a s := rfl

@[simp] theorem run_look_bind {α β : Type} (g : State → α) (f : α → M β) (s : State) :
    (look g >>= f) s = f (g s) s := rfl

@[simp] theorem run_update_bind {β : Type} (g : State → State) (f : Unit → M β) (s : State) :
    (update g >>= f) s = f () (g s) := rfl

@[simp] theorem run_abort_bind {α β : Type} (x : Abort) (f : α → M β) (s : State) :
    ((abort x : M α) >>= f) s = .error x s := rfl

@[simp] theorem run_draw_bind {β : Type} (f : Long → M β) (s : State) :
    (draw >>= f) s = f (Config.free s.draws) { s with draws := s.draws + 1 } := rfl

@[simp] theorem run_bind_bind {α β γ : Type} (m : M α) (f : α → M β) (g : β → M γ) (s : State) :
    ((m >>= f) >>= g) s = (m >>= fun a => f a >>= g) s := by
  simp only [run_bind]
  cases m s <;> rfl

/-- If a sequence answers, its first part did, and then the rest. -/
theorem run_bind_eq_ok {α β : Type} {m : M α} {f : α → M β} {s t : State} {b : β} (h : (m >>= f) s = .ok b t) :
    ∃ a s', m s = .ok a s' ∧ f a s' = .ok b t := by
  rw [run_bind] at h
  cases hm : m s with
  | ok a s' => exact ⟨a, s', rfl, by simpa [hm] using h⟩
  | error e s' => simp [hm] at h

@[simp] theorem run_setFlags (f : Ccr → Ccr) (s : State) : setFlags f s = .ok () (s.setCcr (f s.ccr)) := rfl

@[simp] theorem run_setFlags_bind {β : Type} (f : Ccr → Ccr) (g : Unit → M β) (s : State) :
    (setFlags f >>= g) s = g () (s.setCcr (f s.ccr)) := rfl

/-- An instruction whose computation answers ends in the state it answers. -/
theorem execute_ok {m : M Unit} {s t : State} (h : m s = .ok () t) : execute m s = .next t := by
  simp [execute, finish, h]

/-- An instruction that goes on to a next state has either answered it, or was cut off by a bus or address error, or by
an external reset. -/
theorem execute_next {m : M Unit} {s t : State} (h : execute m s = .next t) :
    m s = .ok () t ∨ (∃ e cyc inExc s', m s = .error (.access e cyc inExc) s' ∧
      accessErrorTaken s s' e cyc inExc (.instruction (s.pc - 2)) = .next t) ∨
      ∃ s', m s = .error .reset s' ∧ t = abandonedFrom s s' := by
  unfold execute finish at h
  cases hm : m s with
  | ok a s' => simp [hm] at h; exact .inl (by rw [h])
  | error x s' =>
    rw [hm] at h
    cases x with
    | access e cyc inExc => exact .inr (.inl ⟨e, cyc, inExc, s', rfl, h⟩)
    | reset =>
      simp only [Host.Outcome.next.injEq] at h
      exact .inr (.inr ⟨s', rfl, h.symm⟩)
    | fault f => simp at h
    | refuse r => simp at h

end Sys2Proof.Machine
end

