-- ==== Sys2Proof/Laws/Ops.lean ====
section
/-! SUPPORT. When the shared operations of Ops.lean complete, and the state they then answer; where they are cut off. -/

namespace Sys2Proof.Machine

/-! Bus cycles. -/

@[simp] theorem countCycle_quiet {s : State} (h : s.resetIn = none) : countCycle s = .ok () s := by
  simp [countCycle, h]

/-- What a bus cycle changes: the bus cycles until a reset. -/
theorem countCycle_state {s t : State} (h : countCycle s = .ok () t) : ∃ n, t = { s with resetIn := n } := by
  unfold countCycle at h
  split at h
  · simp only [EStateM.Result.ok.injEq] at h; exact ⟨s.resetIn, h.2.symm⟩
  · simp at h
  · simp only [EStateM.Result.ok.injEq] at h; exact ⟨_, h.2.symm⟩

theorem State.readable_quiet {s : State} {fc : BitVec 3} {a : Long} {w : Bool} (h : s.readable fc a w = true) :
    s.resetIn = none := by
  simp only [State.readable, Bool.and_eq_true, Option.isNone_iff_eq_none] at h
  exact h.1

theorem State.storable_quiet {s : State} {fc : BitVec 3} {a : Long} {w : Bool} (h : s.storable fc a w = true) :
    s.resetIn = none := by
  simp only [State.storable, Bool.and_eq_true, Option.isNone_iff_eq_none] at h
  exact h.1.1

/-- A readable address is answered from memory. -/
theorem busCycle_read {s : State} {fc : BitVec 3} {a : Long} {w : Bool} (h : s.readable fc a w = true) :
    ∃ r, r ≠ .device ∧ busCycle (.reading fc a w) s = .ok r s := by
  unfold busCycle
  rw [run_bind_ok (countCycle_quiet (State.readable_quiet h))]
  simp only [run_look_bind]
  cases hr : s.answer (.reading fc a w) <;> simp [State.readable, hr] at h ⊢

/-- A storable address takes a write of any data. -/
theorem State.storable_answer {s : State} {fc : BitVec 3} {a : Long} {w : Bool} (h : s.storable fc a w = true)
    (v : Word) : s.answer (.writing fc a w v) = .data := by
  simp only [State.storable, Bool.and_eq_true, List.all_eq_true, beq_iff_eq, List.mem_filter] at h
  unfold State.answer
  split
  · exact h.1.2
  · rename_i r hr
    have hm := List.mem_of_find?_eq_some hr
    have hp := List.find?_some hr
    simp only [Cycle.writing, Bool.and_eq_true] at hp
    exact h.2 r ⟨hm, hp.1⟩

theorem busCycle_write {s : State} {fc : BitVec 3} {a : Long} {w : Bool} (h : s.storable fc a w = true) (v : Word) :
    busCycle (.writing fc a w v) s = .ok .data s := by
  unfold busCycle
  rw [run_bind_ok (countCycle_quiet (State.storable_quiet h))]
  simp only [run_look_bind, State.storable_answer h v]
  rfl

/-- A bus cycle that ends brings a reset nearer and changes nothing else. -/
theorem busCycle_state {s t : State} {cyc : Cycle} {r : Reply} (h : busCycle cyc s = .ok r t) :
    ∃ n, t = { s with resetIn := n } := by
  unfold busCycle at h
  obtain ⟨_, s1, h1, h2⟩ := run_bind_eq_ok h
  obtain ⟨n, e⟩ := countCycle_state h1
  simp only [run_look_bind] at h2
  refine ⟨n, ?_⟩
  cases hr : s1.answer cyc <;> simp [hr, hang] at h2 <;> rw [← h2.2, e]

/-- A cycle that the platform ends in a bus error cuts off what makes it (R71). -/
theorem busCycle_busError {s : State} {cyc : Cycle} (hq : s.resetIn = none) (h : s.answer cyc = .busError) :
    busCycle cyc s = .error (.access .busError cyc false) s := by
  unfold busCycle
  rw [run_bind_ok (countCycle_quiet hq)]
  simp [h]

/-- A cycle that nothing answers ends the run, where no reset comes in the step (R71). -/
theorem busCycle_silent {s : State} {cyc : Cycle} (hq : s.resetIn = none) (h : s.answer cyc = .silent) :
    busCycle cyc s = .error (.fault .busHang) s := by
  unfold busCycle
  rw [run_bind_ok (countCycle_quiet hq)]
  simp [h, hang, hq]

/-- The reset of this step cuts off the bus cycle it comes in (60_exceptions.md R362). -/
theorem busCycle_reset {s : State} {cyc : Cycle} (h : s.resetIn = some 0) : busCycle cyc s = .error .reset s := by
  unfold busCycle
  rw [run_bind_error (s' := s) (e := .reset) (by simp [countCycle, h])]

/-- What a read cycle obtains changes the free draws at most. -/
theorem supply_state {n : Nat} {r : Reply} {m : State → BitVec n} {s t : State} {v : BitVec n}
    (h : supply r m s = .ok v t) : ∃ d, t = { s with draws := d } := by
  unfold supply at h
  split at h
  · simp only [fromDevice, run_draw_bind, run_pure, EStateM.Result.ok.injEq] at h
    exact ⟨_, h.2.symm⟩
  · simp only [run_look, EStateM.Result.ok.injEq] at h
    exact ⟨s.draws, h.2.symm⟩

theorem supply_memory {n : Nat} {r : Reply} (m : State → BitVec n) (s : State) (h : r ≠ .device) :
    supply r m s = .ok (m s) s := by
  simp [supply, h]

/-- A device supplies some value and leaves the processor as it is (R82). -/
theorem supply_device {n : Nat} (m : State → BitVec n) (s : State) :
    ∃ v, supply .device m s = .ok v { s with draws := s.draws + 1 } := ⟨_, rfl⟩

theorem aligned_even {s : State} {cyc : Cycle} (h : evenAddr cyc.addr = true) : aligned cyc s = .ok () s := by
  simp only [evenAddr, Bool.not_eq_true'] at h
  simp only [aligned, h]
  rfl

theorem aligned_odd {s : State} {cyc : Cycle} (h : evenAddr cyc.addr = false) :
    aligned cyc s = .error (.access .addressError cyc false) s := by
  simp only [evenAddr, Bool.not_eq_false'] at h
  simp only [aligned, h]
  rfl

theorem evenAddr_add_two (a : Long) : evenAddr (a + 2) = evenAddr a := by
  simp only [evenAddr, BitVec.getLsbD, Nat.testBit_zero, BitVec.toNat_add]
  congr 1
  apply decide_eq_decide.mpr
  rw [show (2 : BitVec 32).toNat = 2 from rfl]
  omega

/-! Reads. -/

theorem readByte_ok {s : State} {fc : BitVec 3} {a : Long} (h : s.readable fc a false = true) :
    readByte fc a s = .ok (s.byteAt fc a) s := by
  obtain ⟨r, hr, hb⟩ := busCycle_read h
  unfold readByte
  rw [run_bind_ok hb, supply_memory _ _ hr]
  rfl

theorem readWord_ok {s : State} {fc : BitVec 3} {a : Long} (he : evenAddr a = true) (h : s.readable fc a true = true) :
    readWord fc a s = .ok (s.wordAt fc a) s := by
  obtain ⟨r, hr, hb⟩ := busCycle_read h
  unfold readWord
  rw [run_bind_ok (aligned_even he), run_bind_ok hb, supply_memory _ _ hr]
  rfl

theorem readLong_ok {s : State} {fc : BitVec 3} {a : Long} (he : evenAddr a = true) (h : s.readable fc a true = true)
    (h2 : s.readable fc (a + 2) true = true) :
    readLong fc a s = .ok (s.wordAt fc a ++ s.wordAt fc (a + 2)) s := by
  unfold readLong
  rw [run_bind_ok (readWord_ok he h), run_bind_ok (readWord_ok (by rw [evenAddr_add_two, he]) h2)]
  rfl

/-- A read that can complete answers the operand and changes nothing (R67). -/
theorem readSized_ok {s : State} {fc : BitVec 3} {a : Long} {sz : Size} (h : s.canRead fc a sz = true) :
    readSized fc a sz s = .ok (s.load fc a sz) s := by
  cases sz with
  | b => exact readByte_ok h
  | w =>
    simp only [State.canRead, Bool.and_eq_true] at h
    exact readWord_ok h.1 h.2
  | l =>
    simp only [State.canRead, Bool.and_eq_true] at h
    exact readLong_ok h.1.1 h.1.2 h.2

/-- A read that completes changes the free draws (a device's) and the bus cycles until a reset at most. -/
theorem readSized_state {s t : State} {fc : BitVec 3} {a : Long} {sz : Size} {v : BitVec sz.bits}
    (h : readSized fc a sz s = .ok v t) : ∃ d n, t = { s with draws := d, resetIn := n } := by
  have cycle : ∀ {n : Nat} {c : Cycle} {m : State → BitVec n} {v : BitVec n} {u t : State},
      (busCycle c >>= fun r => supply r m) u = .ok v t → ∃ d n, t = { u with draws := d, resetIn := n } := by
    intro n c m v u t h0
    obtain ⟨r, s1, hb, h1⟩ := run_bind_eq_ok h0
    obtain ⟨k, rfl⟩ := busCycle_state hb
    obtain ⟨d, rfl⟩ := supply_state h1
    exact ⟨d, k, rfl⟩
  have word : ∀ {a : Long} {v : Word} {u t : State}, readWord fc a u = .ok v t →
      ∃ d n, t = { u with draws := d, resetIn := n } := by
    intro a v u t h0
    unfold readWord at h0
    cases he : evenAddr a with
    | false => rw [run_bind_error (aligned_odd he)] at h0; simp at h0
    | true => rw [run_bind_ok (aligned_even he)] at h0; exact cycle h0
  cases sz with
  | b => exact cycle h
  | w => exact word h
  | l =>
    simp only [readSized, readLong] at h
    obtain ⟨hi, s', hh, h1⟩ := run_bind_eq_ok h
    obtain ⟨d, n, rfl⟩ := word hh
    obtain ⟨lo, s'', hl, h5⟩ := run_bind_eq_ok h1
    obtain ⟨d', n', rfl⟩ := word hl
    simp only [run_pure, EStateM.Result.ok.injEq] at h5
    exact ⟨d', n', h5.2.symm⟩

theorem memRead_ok {s : State} {a : Long} {sz : Size} (h : s.canRead s.dataFc a sz = true) :
    memRead sz a s = .ok (s.load s.dataFc a sz) s := readSized_ok h

/-- An odd word or long read is an address error and nothing is read (R68, R69). -/
theorem readSized_odd {s : State} {fc : BitVec 3} {a : Long} {sz : Size} (hs : sz ≠ .b) (h : evenAddr a = false) :
    readSized fc a sz s = .error (.access .addressError (.reading fc a true) false) s := by
  have word : readWord fc a s = .error (.access .addressError (.reading fc a true) false) s := by
    unfold readWord
    rw [run_bind_error (aligned_odd h)]
  cases sz with
  | b => exact absurd rfl hs
  | w => exact word
  | l => simp only [readSized, readLong]; rw [run_bind_error word]

/-! Writes. -/

theorem noteStale_run (s : State) (fc : BitVec 3) (a : Long) : noteStale fc a s = .ok () (s.noted fc a) := by
  simp only [noteStale, run_update, State.noted]

theorem writeByte_ok {s : State} {fc : BitVec 3} {a : Long} {v : Byte} (h : s.storable fc a false = true) :
    writeByte fc a v s = .ok () (s.storeByte fc a v) := by
  unfold writeByte
  rw [run_bind_ok (busCycle_write h _)]
  simp only [↓reduceIte]
  rw [run_bind_ok (noteStale_run s fc a)]
  simp [State.storeByte, State.cell_congr (State.noted_platform s fc a)]

theorem writeWord_ok {s : State} {fc : BitVec 3} {a : Long} {v : Word} (he : evenAddr a = true)
    (h : s.storable fc a true = true) : writeWord fc a v s = .ok () (s.storeWord fc a v) := by
  unfold writeWord
  rw [run_bind_ok (aligned_even he), run_bind_ok (busCycle_write h _)]
  simp only [↓reduceIte]
  rw [run_bind_ok (noteStale_run s fc a)]
  simp [State.storeWord, State.cell_congr (State.noted_platform s fc a)]

/-- A write that can complete stores the operand (R67, R76). -/
theorem writeSized_ok {s : State} {fc : BitVec 3} {a : Long} {sz : Size} {v : BitVec sz.bits}
    (h : s.canStore fc a sz = true) : writeSized fc a sz v s = .ok () (s.store fc a sz v) := by
  cases sz with
  | b => exact writeByte_ok h
  | w =>
    simp only [State.canStore, Bool.and_eq_true] at h
    exact writeWord_ok h.1 h.2
  | l =>
    simp only [State.canStore, Bool.and_eq_true] at h
    simp only [writeSized, writeLong]
    rw [run_bind_ok (writeWord_ok h.1.1 h.1.2)]
    refine writeWord_ok (by rw [evenAddr_add_two, h.1.1]) ?_
    rw [State.storable_congr (State.storeWord_platform s fc a _) (State.storeWord_resetIn s fc a _)]
    exact h.2

theorem memWrite_ok {s : State} {a : Long} {sz : Size} {v : BitVec sz.bits} (h : s.canStore s.dataFc a sz = true) :
    memWrite sz a v s = .ok () (s.store s.dataFc a sz v) := writeSized_ok h

/-- An odd word or long write is an address error and nothing is written (R68, R69). The cycle is the first word's. -/
theorem writeSized_odd {s : State} {fc : BitVec 3} {a : Long} {sz : Size} {v : BitVec sz.bits} (hs : sz ≠ .b)
    (h : evenAddr a = false) :
    ∃ w, writeSized fc a sz v s = .error (.access .addressError (.writing fc a true w) false) s := by
  have word : ∀ w, writeWord fc a w s = .error (.access .addressError (.writing fc a true w) false) s := by
    intro w
    unfold writeWord
    rw [run_bind_error (aligned_odd h)]
  cases sz with
  | b => exact absurd rfl hs
  | w => exact ⟨v, word v⟩
  | l => exact ⟨_, by simp only [writeSized, writeLong]; rw [run_bind_error (word _)]⟩

/-- A byte outside the stored cells reads as before. -/
theorem store_get_other (s : State) (fc : BitVec 3) (a : Long) (sz : Size) (v : BitVec sz.bits) {k : Nat}
    (h : k ∉ s.cells fc a sz) : (s.store fc a sz v).mem.get k = s.mem.get k := by
  cases sz with
  | b =>
    simp only [State.cells, List.mem_singleton] at h
    exact Memory.get_set_other _ _ h
  | w =>
    simp only [State.cells, List.mem_cons, List.not_mem_nil, or_false, not_or] at h
    exact Memory.get_setWord_other _ _ h.1 h.2
  | l =>
    simp only [State.cells, List.mem_cons, List.not_mem_nil, or_false, not_or] at h
    have hc := State.cell_congr (State.storeWord_platform s fc a (v.extractLsb' 16 16)) fc (a + 2)
    change (((s.mem.setWord (s.cell fc a) _).setWord ((s.storeWord fc a _).cell fc (a + 2)) _).get k) = _
    rw [hc, Memory.get_setWord_other _ _ h.2.2.1 h.2.2.2, Memory.get_setWord_other _ _ h.1 h.2.1]

theorem store_memoryKept (s : State) (fc : BitVec 3) (a : Long) (sz : Size) (v : BitVec sz.bits) :
    MemoryKept (s.cells fc a sz) s (s.store fc a sz v) := by
  intro fc' b h
  unfold State.byteAt
  rw [State.cell_congr (State.store_platform s fc a sz v)]
  exact store_get_other s fc a sz v h

theorem MemoryKept.of_mem {s t : State} (hm : t.mem = s.mem) (hp : t.platform = s.platform) : MemoryKept [] s t := by
  intro fc a _
  simp [State.byteAt, State.cell_congr hp, hm]

/-! The stack. -/

theorem push32_ok {s : State} {v : Long} (h : s.canStore s.dataFc (s.areg spReg - 4) .l = true) :
    push32 v s = .ok () ((s.setAreg spReg (s.areg spReg - 4)).store s.dataFc (s.areg spReg - 4) .l v) := by
  have hfc : (s.setAreg spReg (s.areg spReg - 4)).dataFc = s.dataFc := by simp [State.dataFc]
  have hm : (s.setAreg spReg (s.areg spReg - 4)).platform = s.platform := by simp
  have hr : (s.setAreg spReg (s.areg spReg - 4)).resetIn = s.resetIn := by simp
  simp only [push32, run_update_bind, run_look_bind, State.setAreg_areg_same]
  rw [memWrite_ok (by rw [State.canStore_congr hm hr, hfc]; exact h), hfc]

theorem push16_ok {s : State} {v : Word} (h : s.canStore s.dataFc (s.areg spReg - 2) .w = true) :
    push16 v s = .ok () ((s.setAreg spReg (s.areg spReg - 2)).store s.dataFc (s.areg spReg - 2) .w v) := by
  have hfc : (s.setAreg spReg (s.areg spReg - 2)).dataFc = s.dataFc := by simp [State.dataFc]
  have hm : (s.setAreg spReg (s.areg spReg - 2)).platform = s.platform := by simp
  have hr : (s.setAreg spReg (s.areg spReg - 2)).resetIn = s.resetIn := by simp
  simp only [push16, run_update_bind, run_look_bind, State.setAreg_areg_same]
  rw [memWrite_ok (by rw [State.canStore_congr hm hr, hfc]; exact h), hfc]

theorem pop16_ok {s : State} (h : s.canRead s.dataFc (s.areg spReg) .w = true) :
    pop16 s = .ok (s.load s.dataFc (s.areg spReg) .w) (s.setAreg spReg (s.areg spReg + 2)) := by
  simp only [pop16, run_look_bind]
  rw [run_bind_ok (memRead_ok h)]
  rfl

theorem pop32_ok {s : State} (h : s.canRead s.dataFc (s.areg spReg) .l = true) :
    pop32 s = .ok (s.load s.dataFc (s.areg spReg) .l) (s.setAreg spReg (s.areg spReg + 4)) := by
  simp only [pop32, run_look_bind]
  rw [run_bind_ok (memRead_ok h)]
  rfl

/-! Taking an exception. -/

theorem entrySr_supervisor (sr : Word) (l : Option (BitVec 3)) : (entrySr sr l).getLsbD 13 = true := by
  cases l with
  | none => simp [entrySr]
  | some l => simp [entrySr]

theorem entrySr_trace (sr : Word) (l : Option (BitVec 3)) : (entrySr sr l).getLsbD 15 = false := by
  cases l with
  | none => simp [entrySr]
  | some l => simp [entrySr]

theorem areg_sp_supervisor {s : State} (h : s.supervisor = true) : s.areg spReg = s.ssp := by
  simp [State.areg, spReg, h]

theorem setAreg_sp_supervisor {s : State} (h : s.supervisor = true) (v : Long) :
    s.setAreg spReg v = { s with ssp := v } := by
  simp [State.setAreg, spReg, h]

theorem dataFc_supervisor {s : State} (h : s.supervisor = true) : s.dataFc = 5 := by simp [State.dataFc, h]

theorem inException_ok {α : Type} {m : M α} {s t : State} {a : α} (h : m s = .ok a t) : inException m s = .ok a t := by
  simp [inException, h]

theorem inException_eq_ok {α : Type} {m : M α} {s t : State} {a : α} (h : inException m s = .ok a t) : m s = .ok a t := by
  unfold inException at h
  cases hm : m s with
  | ok b s' => rw [hm] at h; exact h
  | error x s' => rw [hm] at h; cases x <;> simp at h

/-- An entry that can complete leaves the state `entered`: the frame on the supervisor stack, S set, T clear, PC at the
handler (R370, R371). -/
theorem enterException_ok {s : State} {n : Byte} {pc : Long} {l : Option (BitVec 3)} (h : s.canEnter n = true) :
    enterException n pc l s = .ok () (s.entered n pc l) := by
  simp only [State.canEnter, Bool.and_eq_true] at h
  obtain ⟨⟨h4, h6⟩, hv⟩ := h
  apply inException_ok
  simp only [run_look_bind, run_update_bind]
  change (push32 pc >>= fun _ => push16 s.sr >>= fun _ => enterHandler n) (s.raised l) = _
  have hr : (s.raised l).supervisor = true := entrySr_supervisor s.sr l
  have hfc := dataFc_supervisor hr
  have hsp : (s.raised l).areg spReg = s.ssp := areg_sp_supervisor hr
  have c4 : (s.raised l).canStore (s.raised l).dataFc ((s.raised l).areg spReg - 4) .l = true := by
    rw [hfc, hsp, State.canStore_congr (State.raised_platform s l) (State.raised_resetIn s l)]; exact h4
  rw [run_bind_ok (push32_ok c4), hfc, hsp, setAreg_sp_supervisor hr]
  generalize hs1 : ({ s.raised l with ssp := s.ssp - 4 } : State).store 5 (s.ssp - 4) .l pc = s1
  have s1sup : s1.supervisor = true := by
    rw [← hs1]
    exact (State.supervisor_congr (by simp)).trans hr
  have s1fc := dataFc_supervisor s1sup
  have s1ssp : s1.ssp = s.ssp - 4 := by rw [← hs1]; simp
  have s1sp : s1.areg spReg = s.ssp - 4 := by rw [areg_sp_supervisor s1sup, s1ssp]
  have s1map : s1.platform = s.platform := by rw [← hs1]; simp
  have s1res : s1.resetIn = s.resetIn := by rw [← hs1]; simp
  have e6 : s.ssp - 4 - 2 = s.ssp - 6 := by bv_omega
  have c6 : s1.canStore s1.dataFc (s1.areg spReg - 2) .w = true := by
    rw [s1fc, s1sp, e6, State.canStore_congr s1map s1res]; exact h6
  rw [run_bind_ok (push16_ok c6), s1fc, s1sp, e6, setAreg_sp_supervisor s1sup]
  have hf : ({ s1 with ssp := s.ssp - 6 } : State).store 5 (s.ssp - 6) .w s.sr = s.framed pc l := by
    rw [← hs1]; rfl
  rw [hf]
  have fsup : (s.framed pc l).supervisor = true := by
    rw [← hf]
    exact (State.supervisor_congr (by simp)).trans s1sup
  have ffc := dataFc_supervisor fsup
  have fmap : (s.framed pc l).platform = s.platform := by rw [← hf]; simp [s1map]
  have fres : (s.framed pc l).resetIn = s.resetIn := by rw [← hf]; simp [s1res]
  unfold enterHandler
  rw [run_bind_ok (memRead_ok (by rw [ffc, State.canRead_congr fmap fres]; exact hv)), ffc]
  rfl

theorem raiseTrap_ok {s : State} {n : Byte} (h : s.canEnter n = true) : raiseTrap n s = .ok () (s.entered n s.pc none) := by
  simp only [raiseTrap, run_look_bind]
  exact enterException_ok h

theorem raiseUnexecuted_ok {s : State} {n : Byte} (h : s.canEnter n = true) :
    raiseUnexecuted n s = .ok () ({ s with tracePending := false }.entered n (s.pc - 2) none) := by
  simp only [raiseUnexecuted, run_update_bind, run_look_bind]
  refine enterException_ok ?_
  simp only [State.canEnter, State.canStore_congr (t := { s with tracePending := false }) (s := s) rfl rfl,
    State.canRead_congr (t := { s with tracePending := false }) (s := s) rfl rfl]
  exact h

theorem privileged_supervisor {m : M Unit} {s : State} (h : s.supervisor = true) : privileged m s = m s := by
  simp [privileged, h]

theorem privileged_user {m : M Unit} {s : State} (h : s.supervisor = false) : privileged m s = raiseUnexecuted 8 s := by
  simp [privileged, h]

end Sys2Proof.Machine
end

