-- ==== Sys2Proof/Laws/Kept.lean ====
section
/-! SUPPORT. The relations of Safety.lean that say what is left unchanged: they compose, and each named update has its
own. -/

namespace Sys2Proof.Machine

theorem SystemKept.supervisor {s t : State} (h : SystemKept s t) : t.supervisor = s.supervisor := by
  have := congrArg (fun w : BitVec 11 => w.getLsbD 8) h.system
  simpa only [BitVec.getLsbD_extractLsb', Nat.reduceAdd, Nat.reduceLT, decide_true, Bool.true_and,
    State.supervisor] using this

theorem SystemKept.refl (s : State) : SystemKept s s := by
  constructor <;> first | rfl | (split <;> rfl)

theorem SystemKept.trans {s t u : State} (h : SystemKept s t) (k : SystemKept t u) : SystemKept s u where
  system := k.system.trans h.system
  other := by
    have h1 := h.other
    have k1 := k.other
    rw [h.supervisor] at k1
    cases hs : s.supervisor <;> simp only [hs, Bool.false_eq_true, ↓reduceIte] at h1 k1 ⊢ <;> rw [k1, h1]
  run := k.run.trans h.run
  ir := k.ir.trans h.ir
  ipl := k.ipl.trans h.ipl
  nmi := k.nmi.trans h.nmi
  trace := k.trace.trans h.trace
  window := k.window.trans h.window
  platform := k.platform.trans h.platform
  inputs := k.inputs.trans h.inputs
  deviceResets := k.deviceResets.trans h.deviceResets

theorem Kept.refl (ds as : List RegNo) (s : State) : Kept ds as s s :=
  ⟨fun _ _ => rfl, fun _ _ => rfl, SystemKept.refl s⟩

theorem Kept.trans {ds as : List RegNo} {s t u : State} (h : Kept ds as s t) (k : Kept ds as t u) : Kept ds as s u :=
  ⟨fun n hn => (k.dregs n hn).trans (h.dregs n hn), fun n hn => (k.aregs n hn).trans (h.aregs n hn),
    h.rest.trans k.rest⟩

theorem Kept.mono {ds ds' as as' : List RegNo} {s t : State} (h : Kept ds as s t) (hd : ∀ n ∈ ds, n ∈ ds')
    (ha : ∀ n ∈ as, n ∈ as') : Kept ds' as' s t :=
  ⟨fun n hn => h.dregs n fun c => hn (hd n c), fun n hn => h.aregs n fun c => hn (ha n c), h.rest⟩

/-- A state that differs in fields of which `Kept` does not speak. -/
theorem Kept.of_fields {s t : State} (hd : t.d = s.d) (ha : t.a = s.a) (hu : t.usp = s.usp) (hp : t.ssp = s.ssp)
    (hr : SystemKept s t) : Kept [] [] s t :=
  ⟨fun n _ => State.dreg_congr hd n, fun n _ => State.areg_congr ha hu hp hr.supervisor n, hr⟩

theorem SystemKept.of_fields {s t : State} (hu : t.usp = s.usp) (hp : t.ssp = s.ssp)
    (hsys : t.sr.extractLsb' 5 11 = s.sr.extractLsb' 5 11) (hrun : t.run = s.run) (hir : t.ir = s.ir)
    (hipl : t.ipl = s.ipl) (hn : t.nmiPending = s.nmiPending) (ht : t.tracePending = s.tracePending)
    (hw : t.window = s.window) (hm : t.platform = s.platform) (hi : t.inputs = s.inputs)
    (hdr : t.deviceResets = s.deviceResets) : SystemKept s t :=
  ⟨hsys, by split <;> assumption, hrun, hir, hipl, hn, ht, hw, hm, hi, hdr⟩

theorem kept_setDlow (s : State) (n : RegNo) (sz : Size) (v : BitVec sz.bits) : Kept [n] [] s (s.setDlow n sz v) where
  dregs m hm := State.setDlow_dreg_other s sz v (by simpa using hm)
  aregs _ _ := rfl
  rest := by apply SystemKept.of_fields <;> rfl

theorem kept_setDreg (s : State) (n : RegNo) (v : Long) : Kept [n] [] s (s.setDreg n v) where
  dregs m hm := State.setDreg_dreg_other s v (by simpa using hm)
  aregs _ _ := rfl
  rest := by apply SystemKept.of_fields <;> rfl

theorem kept_setAreg (s : State) (n : RegNo) (v : Long) : Kept [] [n] s (s.setAreg n v) where
  dregs m _ := State.setAreg_dreg s n m v
  aregs m hm := State.setAreg_areg_other s v (by simpa using hm)
  rest := by
    have h := State.setAreg_otherSp s n v
    simp only [State.otherSp, State.setAreg_supervisor] at h
    refine ⟨by simp, ?_, by simp, by simp, by simp, by simp, by simp, by simp, by simp, by simp, by simp⟩
    cases hs : s.supervisor <;> simpa [hs] using h

theorem kept_setCcr (s : State) (f : Ccr) : Kept [] [] s (s.setCcr f) := by
  apply Kept.of_fields <;> first | rfl | apply SystemKept.of_fields <;> first | rfl | exact withCcr_system s.sr f

theorem kept_store (s : State) (fc : BitVec 3) (a : Long) (sz : Size) (v : BitVec sz.bits) :
    Kept [] [] s (s.store fc a sz v) := by
  apply Kept.of_fields <;> first | simp | (apply SystemKept.of_fields <;> simp)

theorem kept_jump (s : State) (t : Long) : Kept [] [] s (s.jump t) := by
  apply Kept.of_fields <;> first | rfl | (apply SystemKept.of_fields <;> rfl)

/-- What the evaluation of an operand leaves unchanged: everything but PC, the noted words, the free draws,
the bus cycles until a reset and the address registers of the list. -/
structure OperandKept (as : List RegNo) (s t : State) : Prop where
  kept : Kept [] as s t
  mem : t.mem = s.mem
  sr : t.sr = s.sr

theorem OperandKept.refl (as : List RegNo) (s : State) : OperandKept as s s := ⟨Kept.refl _ _ _, rfl, rfl⟩

theorem OperandKept.trans {as : List RegNo} {s t u : State} (h : OperandKept as s t) (k : OperandKept as t u) :
    OperandKept as s u := ⟨h.kept.trans k.kept, k.mem.trans h.mem, k.sr.trans h.sr⟩

theorem OperandKept.mono {as as' : List RegNo} {s t : State} (h : OperandKept as s t) (ha : ∀ n ∈ as, n ∈ as') :
    OperandKept as' s t := ⟨h.kept.mono (fun _ h => h) ha, h.mem, h.sr⟩

theorem OperandKept.supervisor {as : List RegNo} {s t : State} (h : OperandKept as s t) : t.supervisor = s.supervisor :=
  State.supervisor_congr h.sr

theorem OperandKept.ccr {as : List RegNo} {s t : State} (h : OperandKept as s t) : t.ccr = s.ccr := by
  simp [State.ccr, h.sr]

theorem OperandKept.dreg {as : List RegNo} {s t : State} (h : OperandKept as s t) (n : RegNo) : t.dreg n = s.dreg n :=
  h.kept.dregs n (by simp)

theorem operandKept_draws (as : List RegNo) (s : State) (d : Nat) (n : Option Nat) :
    OperandKept as s { s with draws := d, resetIn := n } :=
  ⟨Kept.mono (Kept.of_fields rfl rfl rfl rfl (by apply SystemKept.of_fields <;> rfl)) (fun _ h => h) (by simp), rfl, rfl⟩

theorem operandKept_setAreg (s : State) (n : RegNo) (v : Long) : OperandKept [n] s (s.setAreg n v) :=
  ⟨kept_setAreg s n v, by simp, by simp⟩

end Sys2Proof.Machine
end

