-- ==== Sys2Proof/Laws/Operands.lean ====
section
/-! SUPPORT. The fetch of instruction words and the operand operations of Operands.lean: when they complete, what they
answer, and what they leave unchanged. -/

namespace Sys2Proof.Machine

/-! Fetch16 (20_memory.md R81). -/

/-- What a fetch changes: PC by 2, where a store has hit the word the noted words, the free draws, and the bus cycles
until a reset. -/
theorem fetch16_state {s t : State} {w : Word} (h : fetch16 s = .ok w t) :
    ∃ st dr n, t = { s with pc := s.pc + 2, stale := st, draws := dr, resetIn := n } := by
  unfold fetch16 at h
  simp only [run_look_bind] at h
  obtain ⟨_, s1, h1, h2⟩ := run_bind_eq_ok h
  have e1 : s1 = s := by
    unfold aligned at h1
    split at h1
    · simp at h1
    · simp only [run_pure, EStateM.Result.ok.injEq] at h1; exact h1.2.symm
  subst e1
  obtain ⟨r, s2, h3, h4⟩ := run_bind_eq_ok h2
  obtain ⟨n, e2⟩ := busCycle_state h3
  simp only [run_look_bind] at h4
  obtain ⟨w', s3, h5, h6⟩ := run_bind_eq_ok h4
  simp only [run_update_bind, run_pure, EStateM.Result.ok.injEq] at h6
  have e3 : ∃ st dr, s3 = { s2 with stale := st, draws := dr } := by
    unfold fetchAnswered at h5
    split at h5
    · simp only [fromDevice, run_draw_bind, run_pure, EStateM.Result.ok.injEq] at h5
      exact ⟨_, _, h5.2.symm⟩
    · unfold fetchCell at h5
      split at h5
      · simp only [EStateM.Result.ok.injEq] at h5
        exact ⟨s2.stale, s2.draws, h5.2.symm⟩
      · simp only [EStateM.Result.ok.injEq] at h5
        exact ⟨_, _, h5.2.symm⟩
  obtain ⟨st, dr, e3⟩ := e3
  exact ⟨st, dr, n, by rw [← h6.2, e3, e2]⟩

theorem fetch16_kept {s t : State} {w : Word} (h : fetch16 s = .ok w t) : OperandKept [] s t := by
  obtain ⟨st, dr, n, rfl⟩ := fetch16_state h
  refine ⟨?_, rfl, rfl⟩
  apply Kept.of_fields <;> first | rfl | (apply SystemKept.of_fields <;> rfl)

theorem fetch16_pc {s t : State} {w : Word} (h : fetch16 s = .ok w t) : t.pc = s.pc + 2 := by
  obtain ⟨st, dr, n, rfl⟩ := fetch16_state h
  rfl

/-- A fetch that no store has disturbed answers the word at PC. -/
theorem fetch16_ok {s : State} (h : s.canFetch = true) (hf : s.freshPc = true) :
    fetch16 s = .ok s.nextWord s.consumed := by
  simp only [State.canFetch, Bool.and_eq_true] at h
  obtain ⟨r, hr, hb⟩ := busCycle_read h.2
  unfold fetch16
  simp only [run_look_bind]
  rw [run_bind_ok (aligned_even h.1), run_bind_ok hb]
  simp only [run_look_bind]
  have hc : fetchAnswered r (s.cell s.progFc s.pc) s = .ok (s.mem.getWord (s.cell s.progFc s.pc)) s := by
    simp only [fetchAnswered, hr, ↓reduceIte]
    unfold fetchCell
    simp only [State.freshPc, List.isEmpty_iff] at hf
    rw [hf]
  rw [run_bind_ok hc]
  rfl

/-- A fetch completes wherever the word can be read, whatever has been stored. -/
theorem fetch16_completes {s : State} (h : s.canFetch = true) : ∃ w t, fetch16 s = .ok w t := by
  simp only [State.canFetch, Bool.and_eq_true] at h
  obtain ⟨r, hr, hb⟩ := busCycle_read h.2
  have hc : ∃ w t, fetchAnswered r (s.cell s.progFc s.pc) s = .ok w t := by
    simp only [fetchAnswered, hr, ↓reduceIte]
    unfold fetchCell
    split <;> exact ⟨_, _, rfl⟩
  obtain ⟨w, t, hc⟩ := hc
  refine ⟨w, { t with pc := t.pc + 2 }, ?_⟩
  unfold fetch16
  simp only [run_look_bind]
  rw [run_bind_ok (aligned_even h.1), run_bind_ok hb]
  simp only [run_look_bind]
  rw [run_bind_ok hc]
  rfl

/-- A fetch at an odd address is an address error in program space (R70). -/
theorem fetch16_odd {s : State} (h : evenAddr s.pc = false) :
    fetch16 s = .error (.access .addressError (.reading s.progFc s.pc true) false) s := by
  unfold fetch16
  simp only [run_look_bind]
  rw [run_bind_error (aligned_odd h)]

theorem fetch32_kept {s t : State} {v : Long} (h : fetch32 s = .ok v t) : OperandKept [] s t := by
  unfold fetch32 at h
  obtain ⟨_, s1, h1, h2⟩ := run_bind_eq_ok h
  obtain ⟨_, s2, h3, h4⟩ := run_bind_eq_ok h2
  simp only [run_pure, EStateM.Result.ok.injEq] at h4
  rw [← h4.2]
  exact (fetch16_kept h1).trans (fetch16_kept h3)

theorem fetchImm_kept {s t : State} {sz : Size} {v : BitVec sz.bits} (h : fetchImm sz s = .ok v t) :
    OperandKept [] s t := by
  cases sz with
  | b =>
    unfold fetchImm at h
    obtain ⟨_, s1, h1, h2⟩ := run_bind_eq_ok h
    simp only [run_pure, EStateM.Result.ok.injEq] at h2
    rw [← h2.2]
    exact fetch16_kept h1
  | w => exact fetch16_kept h
  | l => exact fetch32_kept h

theorem fetchIndex_kept {s t : State} {v : Long} (h : fetchIndex s = .ok v t) : OperandKept [] s t := by
  unfold fetchIndex at h
  obtain ⟨_, s1, h1, h2⟩ := run_bind_eq_ok h
  simp only [run_look, EStateM.Result.ok.injEq] at h2
  rw [← h2.2]
  exact fetch16_kept h1

/-! Effective addresses (30_encoding.md R125). -/

/-- The evaluation of an address changes PC and, in the modes `(An)+` and `-(An)`, the address register only. -/
theorem eaAddr_kept {s t : State} {sz : Size} {ea : Ea} {a : Long} (h : eaAddr sz ea s = .ok a t) :
    OperandKept ea.updates s t := by
  cases ea <;> unfold eaAddr at h
  case dn | an | imm => simp at h
  case ind n =>
    simp only [run_look, EStateM.Result.ok.injEq] at h
    rw [← h.2]; exact OperandKept.refl _ _
  case post n =>
    simp only [run_look_bind, run_update_bind, run_pure, EStateM.Result.ok.injEq] at h
    rw [← h.2]; exact operandKept_setAreg _ _ _
  case pre n =>
    simp only [run_update_bind, run_look, EStateM.Result.ok.injEq] at h
    rw [← h.2]; exact operandKept_setAreg _ _ _
  case disp n =>
    obtain ⟨_, s1, h1, h2⟩ := run_bind_eq_ok h
    simp only [run_look, EStateM.Result.ok.injEq] at h2
    rw [← h2.2]; exact fetch16_kept h1
  case index n =>
    obtain ⟨_, s1, h1, h2⟩ := run_bind_eq_ok h
    simp only [run_look, EStateM.Result.ok.injEq] at h2
    rw [← h2.2]; exact fetchIndex_kept h1
  case absW =>
    obtain ⟨_, s1, h1, h2⟩ := run_bind_eq_ok h
    simp only [run_pure, EStateM.Result.ok.injEq] at h2
    rw [← h2.2]; exact fetch16_kept h1
  case absL => exact fetch32_kept h
  case pcDisp =>
    simp only [run_look_bind] at h
    obtain ⟨_, s1, h1, h2⟩ := run_bind_eq_ok h
    simp only [run_pure, EStateM.Result.ok.injEq] at h2
    rw [← h2.2]; exact fetch16_kept h1
  case pcIndex =>
    simp only [run_look_bind] at h
    obtain ⟨_, s1, h1, h2⟩ := run_bind_eq_ok h
    simp only [run_pure, EStateM.Result.ok.injEq] at h2
    rw [← h2.2]; exact fetchIndex_kept h1

/-- A memory operand read changes what its address' evaluation changes. -/
theorem readMemEa_kept {s t : State} {sz : Size} {ea : Ea} {v : BitVec sz.bits} (h : readMemEa sz ea s = .ok v t) :
    OperandKept ea.updates s t := by
  unfold readMemEa at h
  obtain ⟨a, s1, h1, h2⟩ := run_bind_eq_ok h
  simp only [run_look_bind] at h2
  obtain ⟨d, n, rfl⟩ := readSized_state h2
  exact (eaAddr_kept h1).trans (operandKept_draws _ _ d n)

/-- An operand read changes what its address' evaluation changes (R125). -/
theorem readEa_kept {s t : State} {sz : Size} {ea : Ea} {v : BitVec sz.bits} (h : readEa sz ea s = .ok v t) :
    OperandKept ea.updates s t := by
  cases ea <;> simp only [readEa] at h
  case dn n =>
    simp only [run_look, EStateM.Result.ok.injEq] at h
    rw [← h.2]; exact OperandKept.refl _ _
  case an n =>
    split at h
    · simp at h
    · simp only [run_look, EStateM.Result.ok.injEq] at h
      rw [← h.2]; exact OperandKept.refl _ _
  case imm => exact fetchImm_kept h
  all_goals exact readMemEa_kept h

/-- A memory operand whose address is evaluated and whose cycles are answered is read. -/
theorem readMemEa_ok {s s1 : State} {sz : Size} {ea : Ea} {a : Long} (ha : eaAddr sz ea s = .ok a s1)
    (hr : s1.canRead (s1.operandFc ea) a sz = true) :
    readMemEa sz ea s = .ok (s1.load (s1.operandFc ea) a sz) s1 := by
  unfold readMemEa
  rw [run_bind_ok ha]
  simp only [run_look_bind]
  exact readSized_ok hr

/-- The memory operand of `readEa`. -/
theorem readEa_memory {sz : Size} {ea : Ea} (hm : ea.isMemory = true) (hi : ea ≠ .imm) :
    readEa sz ea = readMemEa sz ea := by
  cases ea <;> first | rfl | exact absurd rfl hi | simp [Ea.isMemory] at hm

/-- A write to a memory operand. -/
theorem writeEa_memory {s s1 : State} {sz : Size} {ea : Ea} {a : Long} {v : BitVec sz.bits}
    (hm : ea.isMemAlterable = true) (ha : eaAddr sz ea s = .ok a s1) (hs : s1.canStore s1.dataFc a sz = true) :
    writeEa sz ea v s = .ok () (s1.store s1.dataFc a sz v) := by
  have : writeEa sz ea v s = (eaAddr sz ea >>= fun a => memWrite sz a v) s := by
    cases ea <;> first | rfl | simp [Ea.isMemAlterable, Ea.isMemory, Ea.isAlterable] at hm
  rw [this, run_bind_ok ha]
  exact memWrite_ok hs

/-- A read-modify-write memory operand: read, computed, written to the same address (R128). -/
theorem modifyEa_memory {s s1 s2 : State} {sz : Size} {ea : Ea} {a : Long}
    {f : BitVec sz.bits → M (BitVec sz.bits)} {r : BitVec sz.bits} (hm : ea.isMemAlterable = true)
    (ha : eaAddr sz ea s = .ok a s1) (hr : s1.canRead s1.dataFc a sz = true)
    (hf : f (s1.load s1.dataFc a sz) s1 = .ok r s2) (hs : s2.canStore s2.dataFc a sz = true) :
    modifyEa sz ea f s = .ok () (s2.store s2.dataFc a sz r) := by
  have : modifyEa sz ea f s = (eaAddr sz ea >>= fun a => memRead sz a >>= fun v => f v >>= fun r => memWrite sz a r) s := by
    cases ea <;> first | rfl | simp [Ea.isMemAlterable, Ea.isMemory, Ea.isAlterable] at hm
  rw [this, run_bind_ok ha, run_bind_ok (memRead_ok hr), run_bind_ok hf]
  exact memWrite_ok hs

/-- A read-modify-write data register. -/
theorem modifyEa_dn {s s2 : State} {sz : Size} {n : RegNo} {f : BitVec sz.bits → M (BitVec sz.bits)} {r : BitVec sz.bits}
    (hf : f (lowPart sz (s.dreg n)) s = .ok r s2) : modifyEa sz (.dn n) f s = .ok () (s2.setDlow n sz r) := by
  unfold modifyEa
  simp only [run_look_bind]
  rw [run_bind_ok hf]
  rfl

/-! The results with their flags always answer. -/

@[simp] theorem addResult_run {n : Nat} (d v : BitVec n) (s : State) :
    addResult d v s = .ok (aluAdd d v false).r (s.setCcr (arithFlags (aluAdd d v false))) := rfl

@[simp] theorem subResult_run {n : Nat} (d v : BitVec n) (s : State) :
    subResult d v s = .ok (aluSub d v false).r (s.setCcr (arithFlags (aluSub d v false))) := rfl

@[simp] theorem addxResult_run {n : Nat} (d v : BitVec n) (s : State) :
    addxResult d v s = .ok (aluAdd d v s.ccr.x).r (s.setCcr (stickyFlags s.ccr (aluAdd d v s.ccr.x))) := rfl

@[simp] theorem subxResult_run {n : Nat} (d v : BitVec n) (s : State) :
    subxResult d v s = .ok (aluSub d v s.ccr.x).r (s.setCcr (stickyFlags s.ccr (aluSub d v s.ccr.x))) := rfl

@[simp] theorem compareResult_run {n : Nat} (d v : BitVec n) (s : State) :
    compareResult d v s = .ok () (s.setCcr (compareFlags s.ccr (aluSub d v false))) := rfl

@[simp] theorem logicResult_run {n : Nat} (r : BitVec n) (s : State) :
    logicResult r s = .ok r (s.setCcr (moveFlags s.ccr r)) := rfl

@[simp] theorem shiftResult_run {n : Nat} (op : ShiftOp) (k : Nat) (v : BitVec n) (s : State) :
    shiftResult op k v s = .ok (shiftRun op k v s.ccr.x).val (s.setCcr (shiftFlags (shiftRun op k v s.ccr.x))) := rfl

@[simp] theorem bitResult_run {n : Nat} (op : BitOp) (v : BitVec n) (k : Nat) (s : State) :
    bitResult op v k s = .ok (op.apply v k) (s.setCcr { s.ccr with z := !v.getLsbD k }) := rfl

/-- A decimal result of valid digits: N and V are whatever they are. -/
theorem decimalResult_valid (o : Byte × Bool) (s : State) :
    ∃ n v, decimalResult true o s = .ok o.1 ({ s with draws := s.draws + 1 }.setCcr
      { x := o.2, n := n, z := s.ccr.z && decide (o.1 = 0), v := v, c := o.2 }) := ⟨_, _, rfl⟩

/-- A decimal result of invalid digits: everything is open. -/
theorem decimalResult_invalid (o : Byte × Bool) (s : State) :
    ∃ r f, decimalResult false o s = .ok r ({ s with draws := s.draws + 1 }.setCcr f) := ⟨_, _, rfl⟩

/-! The read-modify-write cycle of TAS (48_multiprocessor.md R352). -/

/-- Without a request for a retry the cycle goes on. -/
theorem neverRetried_ok {s : State} {cyc : Cycle} (h : s.retries cyc = false) : neverRetried cyc s = .ok () s := by
  unfold neverRetried
  rw [run_look_bind, h]
  rfl

/-- A request for a retry is a bus error. -/
theorem neverRetried_retried {s : State} {cyc : Cycle} (hq : s.resetIn = none) (h : s.retries cyc = true) :
    neverRetried cyc s = .error (.access .busError cyc false) s := by
  unfold neverRetried
  rw [run_look_bind, h, if_pos rfl, run_bind_ok (countCycle_quiet hq), run_abort]

/-- Where the platform never asks for a retry, neither half of the cycle does. -/
theorem State.unretried_read {s : State} {fc : BitVec 3} {a : Long} (h : s.unretried fc a = true) :
    s.retries (.reading fc a false) = false := by
  unfold State.retries State.response
  cases hr : s.platform.responses.find? _ with
  | none => rfl
  | some r =>
    have hm := List.all_eq_true.mp h r (List.mem_of_find?_eq_some hr)
    have hp := List.find?_some hr
    simp only [Cycle.reading, Bool.and_eq_true] at hp
    simpa [hp.1] using hm

theorem State.unretried_write {s : State} {fc : BitVec 3} {a : Long} (h : s.unretried fc a = true) (v : Word) :
    s.retries (.writing fc a false v) = false := by
  unfold State.retries State.response
  cases hr : s.platform.responses.find? _ with
  | none => rfl
  | some r =>
    have hm := List.all_eq_true.mp h r (List.mem_of_find?_eq_some hr)
    have hp := List.find?_some hr
    simp only [Cycle.writing, Bool.and_eq_true] at hp
    simpa [hp.1] using hm

end Sys2Proof.Machine
end

