-- ==== Sys2Proof/Laws/Boundary.lean ====
section
/-! SUPPORT. Which processing a step is: what the inputs, a pending trace and the run state select. -/

namespace Sys2Proof.Machine

/-- No reset comes with the next sample: the step is that of the boundary. -/
theorem step_quiet {s : State} (h : s.nextSample.reset = none) : step s = boundaryStep s := by
  unfold step machineStep
  cases hi : s.inputs with
  | nil => rfl
  | cons smp rest =>
    simp only [State.nextSample, hi, List.headD_cons] at h
    simp [h]

/-- A reset at the boundary: the step is the reset sequence (70_reset_and_hazards.md R430, R433). -/
theorem step_reset {s : State} {smp : Sample} {rest : List Sample} (hi : s.inputs = smp :: rest)
    (h : smp.reset = some 0) : step s = resetStep { s with inputs := rest, ipl := smp.level } := by
  simp [step, machineStep, hi, h]

/-- A reset in the course of the step: the reset sequence follows what it has cut off (60_exceptions.md R375). -/
theorem step_reset_within {s : State} {smp : Sample} {rest : List Sample} {n : Nat} (hi : s.inputs = smp :: rest)
    (h : smp.reset = some (n + 1)) : step s = resetAfter smp rest (boundaryStep (s.armed smp rest (n + 1))) := by
  simp [step, machineStep, hi, h]

/-- After a step that a reset ends, what was done before decides nothing but memory and the counters: the next state is
one of the reset sequence. -/
theorem resetAfter_next {smp : Sample} {rest : List Sample} {o : Host.Outcome State Fault Refusal} {t : State}
    (h : resetAfter smp rest o = .next t) :
    ∃ u, o = .next u ∧ resetStep { u with inputs := rest, ipl := smp.level } = .next t := by
  cases o with
  | next u => exact ⟨u, rfl, h⟩
  | fault f => simp [resetAfter] at h
  | refused r => simp [resetAfter] at h

/-- A halted machine with no input left does nothing more (60_exceptions.md R427; log 12). -/
theorem boundaryStep_halted_nil {s : State} (h : s.run = .halted) (hi : s.inputs = []) :
    boundaryStep s = .fault .halted := by
  simp [boundaryStep, h, hi]

/-- A halted machine passes over an input. -/
theorem boundaryStep_halted_cons {s : State} {smp : Sample} {rest : List Sample} (h : s.run = .halted)
    (hi : s.inputs = smp :: rest) : boundaryStep s = .next { s with inputs := rest } := by
  simp [boundaryStep, h, hi]

/-- A pending trace comes first (60_exceptions.md R363). -/
theorem boundaryStep_trace {s : State} (h : s.run ≠ .halted) (ht : s.tracePending = true) :
    boundaryStep s = finishBoundary s .boundary (takeTrace s) := by
  unfold boundaryStep
  rw [if_neg h, if_pos ht]

/-- Else the inputs are sampled. -/
theorem boundaryStep_sampled {s : State} (h : s.run ≠ .halted) (ht : s.tracePending = false) :
    boundaryStep s = sampledStep s.nextSample.ack s.sampled := by
  unfold boundaryStep
  rw [if_neg h, ht]
  rfl

/-- A piece of processing between instructions that completes is the step. -/
theorem finishBoundary_ok {base t : State} (p : Progress) : finishBoundary base p (.ok () t) = .next t := rfl

/-- An error in the window of a double bus fault halts the machine (60_exceptions.md R410; log 11). -/
theorem finishBoundary_double {base t : State} {p : Progress} {e : AccessError} {cyc : Cycle} {b : Bool}
    (h : base.window ≠ .none) : finishBoundary base p (.error (.access e cyc b) t) = .next (haltFrom base t) := by
  simp [finishBoundary, isDoubleFault, h]

/-- Outside it the error is taken. -/
theorem finishBoundary_single {base t : State} {p : Progress} {e : AccessError} {cyc : Cycle} {b : Bool}
    (h : base.window = .none) :
    finishBoundary base p (.error (.access e cyc b) t) = accessErrorTaken base t e cyc b p := by
  simp [finishBoundary, isDoubleFault, h]

end Sys2Proof.Machine
end

