-- ==== Sys2Proof/Laws/Changes.lean ====
section
/-! SUPPORT. The frame `Changes` of Safety.lean: it composes, and each named update has its own. -/

namespace Sys2Proof.Machine

theorem MemoryKept.mono {c c' : List Nat} {s t : State} (h : MemoryKept c s t) (hc : ∀ k ∈ c, k ∈ c') :
    MemoryKept c' s t := fun fc a hn => h fc a fun hm => hn (hc _ hm)

theorem MemoryKept.trans {c : List Nat} {s t u : State} (h : MemoryKept c s t) (k : MemoryKept c t u)
    (hm : t.platform = s.platform) : MemoryKept c s u := by
  intro fc a hn
  rw [k fc a (by rw [State.cell_congr hm]; exact hn), h fc a hn]

theorem Changes.refl (ds as : List RegNo) (c : List Nat) (s : State) : Changes ds as c s s :=
  ⟨Kept.refl ds as s, fun _ _ _ => rfl⟩

theorem Changes.trans {ds as : List RegNo} {c : List Nat} {s t u : State} (h : Changes ds as c s t)
    (k : Changes ds as c t u) : Changes ds as c s u :=
  ⟨h.kept.trans k.kept, h.memory.trans k.memory h.kept.rest.platform⟩

theorem Changes.mono {ds ds' as as' : List RegNo} {c c' : List Nat} {s t : State} (h : Changes ds as c s t)
    (hd : ∀ n ∈ ds, n ∈ ds') (ha : ∀ n ∈ as, n ∈ as') (hc : ∀ k ∈ c, k ∈ c') : Changes ds' as' c' s t :=
  ⟨h.kept.mono hd ha, h.memory.mono hc⟩

theorem changes_setDlow (s : State) (n : RegNo) (sz : Size) (v : BitVec sz.bits) : Changes [n] [] [] s (s.setDlow n sz v) :=
  ⟨kept_setDlow s n sz v, MemoryKept.of_mem rfl rfl⟩

theorem changes_setDreg (s : State) (n : RegNo) (v : Long) : Changes [n] [] [] s (s.setDreg n v) :=
  ⟨kept_setDreg s n v, MemoryKept.of_mem rfl rfl⟩

theorem changes_setAreg (s : State) (n : RegNo) (v : Long) : Changes [] [n] [] s (s.setAreg n v) :=
  ⟨kept_setAreg s n v, MemoryKept.of_mem (by simp) (by simp)⟩

theorem changes_setCcr (s : State) (f : Ccr) : Changes [] [] [] s (s.setCcr f) :=
  ⟨kept_setCcr s f, MemoryKept.of_mem rfl rfl⟩

theorem changes_jump (s : State) (a : Long) : Changes [] [] [] s (s.jump a) :=
  ⟨kept_jump s a, MemoryKept.of_mem rfl rfl⟩

theorem changes_draw (s : State) : Changes [] [] [] s { s with draws := s.draws + 1 } :=
  ⟨Kept.of_fields rfl rfl rfl rfl (by apply SystemKept.of_fields <;> rfl), MemoryKept.of_mem rfl rfl⟩

theorem changes_store (s : State) (fc : BitVec 3) (a : Long) (sz : Size) (v : BitVec sz.bits) :
    Changes [] [] (s.cells fc a sz) s (s.store fc a sz v) :=
  ⟨kept_store s fc a sz v, store_memoryKept s fc a sz v⟩

/-- The evaluation of an operand changes what its mode changes, and no memory. -/
theorem OperandKept.changes {as : List RegNo} {s t : State} (h : OperandKept as s t) : Changes [] as [] s t :=
  ⟨h.kept, MemoryKept.of_mem h.mem h.kept.rest.platform⟩

/-- A composition in which each part's lists lie in those of the whole. -/
theorem Changes.after {ds ds' as as' : List RegNo} {c c' : List Nat} {s t u : State} (h : Changes ds' as' c' s t)
    (k : Changes ds as c t u) : Changes (ds ++ ds') (as ++ as') (c ++ c') s u :=
  (h.mono (by simp_all) (by simp_all) (by simp_all)).trans (k.mono (by simp_all) (by simp_all) (by simp_all))

/-- The cells of a store depend on the platform only. -/
theorem State.cells_congr {s t : State} (h : t.platform = s.platform) (fc : BitVec 3) (a : Long) (sz : Size) :
    t.cells fc a sz = s.cells fc a sz := by
  cases sz <;> simp [State.cells, State.cell_congr h]

end Sys2Proof.Machine
end

