-- ==== Sys2Proof/Tests/Slice0.lean ====
section
/-! SUPPORT. Tests of the model: ill-formed terms that the checks refuse, operation words written out from the spec's
encodings, one step of each instruction with the result that the spec's own vectors print (95_test_vectors.md V40 to V60
and the tables of the section files), and for every obligation with hypotheses a state and operands that meet them. -/

open Sys2Proof Sys2Proof.Machine

namespace Sys2Proof.Machine

/-- Words stored at PC. -/
def State.placed (s : State) (ws : List Word) : State := { s with mem := storeWords ws s.pc s.mem }

/-- A word of data. -/
def State.poke (s : State) (a : Nat) (w : Word) : State := { s with mem := s.mem.setWord a w }

/-- A long word of data. -/
def State.pokeLong (s : State) (a : Nat) (v : Long) : State :=
  (s.poke a (v.extractLsb' 16 16)).poke (a + 2) (v.extractLsb' 0 16)

/-- The state with the flags X N Z V C. -/
def State.flagged (s : State) (x n z v c : Bool) : State := s.setCcr { x := x, n := n, z := z, v := v, c := c }

end Sys2Proof.Machine

namespace Sys2Proof.Tests

set_option Elab.async false

/-! ## Well-formedness: each check refuses an ill-formed term (30_encoding.md R122 to R126) -/

theorem test_wf_data_alterable : Instr.wf (.addi .w (.an 0)) = false ∧ Instr.wf (.andi .w .pcDisp) = false ∧
    Instr.wf (.cmpi .b .imm) = false ∧ Instr.wf (.bsetImm .pcIndex) = false ∧ Instr.wf (.bchgReg 0 .imm) = false ∧
    Instr.wf (.eor .w 0 (.an 1)) = false ∧ Instr.wf (.scc .eq .imm) = false ∧ Instr.wf (.move .w (.dn 0) .imm) = false := by
  decide

theorem test_wf_data : Instr.wf (.chk 0 (.an 0)) = false ∧ Instr.wf (.mulu 0 (.an 0)) = false ∧
    Instr.wf (.andToDn .w 0 (.an 0)) = false ∧ Instr.wf (.btstReg 0 (.an 0)) = false ∧
    Instr.wf (.moveToSr (.an 0)) = false := by decide

theorem test_wf_static_btst : Instr.wf (.btstImm .imm) = false ∧ Instr.wf (.btstImm (.an 0)) = false := by decide

theorem test_wf_memory_alterable : Instr.wf (.addToEa .w 0 (.dn 0)) = false ∧ Instr.wf (.aslMem (.dn 0)) = false ∧
    Instr.wf (.rorMem .pcDisp) = false ∧ Instr.wf (.orToEa .w 0 .imm) = false := by decide

theorem test_wf_control : Instr.wf (.lea 0 (.post 0)) = false ∧ Instr.wf (.jmp (.dn 0)) = false ∧
    Instr.wf (.pea .imm) = false ∧ Instr.wf (.jsr (.pre 0)) = false := by decide

theorem test_wf_movem : Instr.wf (.movemToMem .w .pcDisp) = false ∧ Instr.wf (.movemToMem .w (.post 0)) = false ∧
    Instr.wf (.movemToRegs .w (.pre 0)) = false ∧ Instr.wf (.movemToRegs .l .imm) = false := by decide

theorem test_wf_alterable : Instr.wf (.addq .w 1 .pcDisp) = false ∧ Instr.wf (.subq .w 1 .imm) = false := by decide

theorem test_wf_byte_an : Instr.wf (.move .b (.an 0) (.dn 0)) = false ∧ Instr.wf (.cmp .b 0 (.an 0)) = false ∧
    Instr.wf (.addToDn .b 0 (.an 0)) = false ∧ Instr.wf (.addq .b 1 (.an 0)) = false := by decide

theorem test_wf_wide : Instr.wf (.movea .b (.dn 0) 0) = false ∧ Instr.wf (.ext .b 0) = false ∧
    Instr.wf (.movep true .b 0 0) = false ∧ Instr.wf (.adda .b 0 (.dn 0)) = false ∧
    Instr.wf (.movemPredec .b 0) = false := by decide

theorem test_wf_condition : Instr.wf (.bcc .t 2) = false ∧ Instr.wf (.bcc .f 2) = false := by decide

/-! ## Decoding: words written out from the encodings, field by field -/

/-- Each word decodes to its instruction, which is well-formed and is encoded by that word alone. -/
def readsAs (l : List (Word × Instr)) : Bool :=
  l.all fun p => (match decode p.1 with | .ok i => decide (i = p.2) | .error _ => false) && p.2.wf &&
    decide (encode p.2 = [p.1])

/-- 42_logical.md R234 to R236, 47_system_control.md R322 to R327. -/
theorem test_decode_immediate : readsAs [
  (0b0000000001000000, .ori .w (.dn 0)),
  (0b0000000000111100, .oriToCcr),
  (0b0000000001111100, .oriToSr),
  (0b0000001000000001, .andi .b (.dn 1)),
  (0b0000001000111100, .andiToCcr),
  (0b0000001001111100, .andiToSr),
  (0b0000010010101010, .subi .l (.disp 2)),
  (0b0000011001110011, .addi .w (.index 3)),
  (0b0000101010011100, .eori .l (.post 4)),
  (0b0000101000111100, .eoriToCcr),
  (0b0000101001111100, .eoriToSr),
  (0b0000110000111001, .cmpi .b .absL)] = true := by decide +kernel

/-- 44_bit_manipulation.md R272, R273. -/
theorem test_decode_bit : readsAs [
  (0b0000100000111010, .btstImm .pcDisp),
  (0b0000001100111100, .btstReg 1 .imm),
  (0b0000100001010001, .bchgImm (.ind 1)),
  (0b0000110101100101, .bchgReg 6 (.pre 5)),
  (0b0000100010111000, .bclrImm .absW),
  (0b0000010110000011, .bclrReg 2 (.dn 3)),
  (0b0000100011011111, .bsetImm (.post 7)),
  (0b0000001111000000, .bsetReg 1 (.dn 0))] = true := by decide +kernel

/-- 40_data_movement.md R163 to R180. -/
theorem test_decode_move : readsAs [
  (0b0000000100001000, .movep false .w 0 0),
  (0b0000101111001110, .movep true .l 5 6),
  (0b0011010000000001, .move .w (.dn 1) (.dn 2)),
  (0b0010001011011000, .move .l (.post 0) (.post 1)),
  (0b0001001000100000, .move .b (.pre 0) (.dn 1)),
  (0b0011001111111001, .move .w .absL .absL),
  (0b0011010001000001, .movea .w (.dn 1) 2),
  (0b0111000000000011, .moveq 3 0),
  (0b0100000111111001, .lea 0 .absL),
  (0b0100100001110010, .pea (.index 2)),
  (0b0100100011010000, .movemToMem .l (.ind 0)),
  (0b0100100011100111, .movemPredec .l 7),
  (0b0100110011011111, .movemToRegs .l (.post 7)),
  (0b1100001101000110, .exgDD 1 6),
  (0b1100001101001110, .exgAA 1 6),
  (0b1100001110001110, .exgDA 1 6),
  (0b0100111001010110, .link 6),
  (0b0100111001011110, .unlk 6),
  (0b0100100001000011, .swap 3),
  (0b0100100010000011, .ext .w 3),
  (0b0100100011000011, .ext .l 3)] = true := by decide +kernel

/-- 41_integer_arithmetic.md R202 to R204, 42_logical.md R237 to R239. -/
theorem test_decode_unary : readsAs [
  (0b0100000000000000, .negx .b (.dn 0)),
  (0b0100001001010000, .clr .w (.ind 0)),
  (0b0100010001000010, .neg .w (.dn 2)),
  (0b0100011000000001, .not .b (.dn 1)),
  (0b0100101001000000, .tst .w (.dn 0)),
  (0b0101011111000000, .scc .eq (.dn 0)),
  (0b0100100000000000, .nbcd (.dn 0)),
  (0b0100101011111001, .tas .absL)] = true := by decide +kernel

/-- 47_system_control.md R329 to R342. -/
theorem test_decode_system : readsAs [
  (0b0100000011100111, .moveFromSr (.pre 7)),
  (0b0100010011111100, .moveToCcr .imm),
  (0b0100011011000001, .moveToSr (.dn 1)),
  (0b0100111001100111, .moveToUsp 7),
  (0b0100111001101000, .moveFromUsp 0),
  (0b0100010110000001, .chk 2 (.dn 1)),
  (0b0100101011111100, .illegal),
  (0b0100111001000101, .trap 5),
  (0b0100111001110110, .trapv),
  (0b0100111001110000, .reset),
  (0b0100111001110010, .stop),
  (0b1010000000000000, .lineA 0),
  (0b1111000100100011, .lineF 0x123)] = true := by decide +kernel

/-- 46_program_control.md R291 to R312. -/
theorem test_decode_control : readsAs [
  (0b0100111001110001, .nop),
  (0b0100111001110011, .rte),
  (0b0100111001110101, .rts),
  (0b0100111001110111, .rtr),
  (0b0100111010111010, .jsr .pcDisp),
  (0b0100111011111011, .jmp .pcIndex),
  (0b0101000111001000, .dbcc .f 0),
  (0b0110000011111110, .bra 0xFE),
  (0b0110000100000100, .bsr 4),
  (0b0110111000000100, .bcc .gt 4)] = true := by decide +kernel

/-- 41_integer_arithmetic.md R191 to R215. -/
theorem test_decode_arithmetic : readsAs [
  (0b0101000010001000, .addq .l 0 (.an 0)),
  (0b0101001101000000, .subq .w 1 (.dn 0)),
  (0b1101001001011000, .addToDn .w 1 (.post 0)),
  (0b1101001101010000, .addToEa .w 1 (.ind 0)),
  (0b1101001011000000, .adda .w 1 (.dn 0)),
  (0b1101010110001001, .addx .l .mem 2 1),
  (0b1001001010000000, .subToDn .l 1 (.dn 0)),
  (0b1001010101010011, .subToEa .w 2 (.ind 3)),
  (0b1001000111000000, .suba .l 0 (.dn 0)),
  (0b1001001110000000, .subx .l .regs 1 0),
  (0b1011000001101011, .cmp .w 0 (.disp 3)),
  (0b1011001011000000, .cmpa .w 1 (.dn 0)),
  (0b1011001100001000, .cmpm .b 1 0),
  (0b1011010100001001, .cmpm .b 2 1),
  (0b1100000011111100, .mulu 0 .imm),
  (0b1100000111000001, .muls 0 (.dn 1)),
  (0b1000000011000001, .divu 0 (.dn 1)),
  (0b1000000111011000, .divs 0 (.post 0))] = true := by decide +kernel

/-- 42_logical.md R231 to R233, 45_bcd.md R284, R285. -/
theorem test_decode_logic : readsAs [
  (0b1000001000000000, .orToDn .b 1 (.dn 0)),
  (0b1000001101010000, .orToEa .w 1 (.ind 0)),
  (0b1100001001000000, .andToDn .w 1 (.dn 0)),
  (0b1100111100111000, .andToEa .b 7 .absW),
  (0b1011000110000001, .eor .l 0 (.dn 1)),
  (0b1100001100001000, .abcd .mem 1 0),
  (0b1000010100000001, .sbcd .regs 2 1)] = true := by decide +kernel

/-- 43_shift_rotate.md R251, R252. -/
theorem test_decode_shift : readsAs [
  (0b1110101110100110, .aslReg .l (.reg 5) 6),
  (0b1110000111010000, .aslMem (.ind 0)),
  (0b1110010001000101, .asrReg .w (.quick 2) 5),
  (0b1110000011100001, .asrMem (.pre 1)),
  (0b1110001101101000, .lslReg .w (.reg 1) 0),
  (0b1110001111011010, .lslMem (.post 2)),
  (0b1110001010001000, .lsrReg .l (.quick 1) 0),
  (0b1110001011101011, .lsrMem (.disp 3)),
  (0b1110001100011000, .rolReg .b (.quick 1) 0),
  (0b1110011111110100, .rolMem (.index 4)),
  (0b1110100001011000, .rorReg .w (.quick 4) 0),
  (0b1110011011111000, .rorMem .absW),
  (0b1110001110110000, .roxlReg .l (.reg 1) 0),
  (0b1110010111111001, .roxlMem .absL),
  (0b1110001001010000, .roxrReg .w (.quick 1) 0),
  (0b1110010011010101, .roxrMem (.ind 5))] = true := by decide +kernel

/-- Words that no instruction has: byte size with An, PC-relative destinations, static BTST of an immediate, the unassigned
size 11, MOVE to an immediate (30_encoding.md R126, R150; 44_bit_manipulation.md R274; V40, V41). -/
theorem test_decode_unassigned :
    ([0x1008, 0x39C0, 0x5208, 0x4AC8, 0x4AFA, 0x083C, 0x00C0, 0x4E74, 0x4E7A, 0xE9C0] : List Word).all
      (fun w => match decode w with | .ok _ => false | .error _ => true) = true := by decide +kernel

/-- The row's words as the host numbers them, the first word lowest: MOVE.L $12345678,D0 with its extension words. -/
theorem test_decode_table_word : decodeTableWord 16 0x2039 = some (.move .l .absL (.dn 0)) ∧
    decodeTableWord 48 0x567812342039 = some (.move .l .absL (.dn 0)) ∧ decodeTableWord 16 0x4E7A = none := by
  decide +kernel

/-! ## One step -/

/-- Supervisor mode, PC at $1000, both stack pointers set, flags clear. -/
def base : State := { State.reset with sr := 0x2000, ssp := 0x8000, usp := 0x6000, pc := 0x1000, window := .none }

/-- What one step leaves, seen through a view. -/
def after {α : Type} (s : State) (view : State → α) : Option α :=
  match step s with
  | .next t => some (view t)
  | _ => none

/-- The flags, in the order X N Z V C. -/
def flags (s : State) : Bool × Bool × Bool × Bool × Bool := (s.ccr.x, s.ccr.n, s.ccr.z, s.ccr.v, s.ccr.c)

/-- 95_test_vectors.md V40. -/
theorem test_move_byte :
    after (((base.setDreg 0 0x123456FF).setDreg 1 0xAAAAAAAA).placed [0x1200])
      (fun t => (t.dreg 1, flags t)) = some (0xAAAAAAFF, (false, true, false, false, false)) := by decide +kernel

/-- 95_test_vectors.md V40. -/
theorem test_move_post :
    after (((((base.setAreg 0 0x2000).setAreg 1 0x3000).poke 0x2000 0x1234).poke 0x2002 0x5678).placed [0x22D8])
      (fun t => (t.load 5 0x3000 .l, t.areg 0, t.areg 1)) = some (0x12345678, 0x2004, 0x3004) := by decide +kernel

/-- 95_test_vectors.md V40. -/
theorem test_move_a7_byte :
    after (((base.setDreg 0 0x99).poke 0x7FFE 0).placed [0x1F00])
      (fun t => (t.byteAt 5 0x7FFE, t.byteAt 5 0x7FFF, t.areg 7)) = some (0x99, 0, 0x7FFE) := by decide +kernel

/-- 95_test_vectors.md V40. -/
theorem test_movea :
    after ((base.setDreg 1 0x8000).placed [0x3441])
      (fun t => (t.areg 2, t.ccr)) = some (0xFFFF8000, base.ccr) := by decide +kernel

/-- 95_test_vectors.md V40. -/
theorem test_moveq :
    after (base.placed [0x7EFF])
      (fun t => (t.dreg 7, flags t)) = some (0xFFFFFFFF, (false, true, false, false, false)) := by decide +kernel

/-- 95_test_vectors.md V40. -/
theorem test_lea :
    after (((base.setAreg 0 0x1000).setDreg 1 0xFFFE).placed [0x45F0, 0x1008])
      (fun t => (t.areg 2, t.pc)) = some (0x1006, 0x1004) := by decide +kernel

/-- 95_test_vectors.md V40. -/
theorem test_lea_long_index :
    after (((base.setAreg 0 0x1000).setDreg 1 0xFFFE).placed [0x45F0, 0x1808])
      (fun t => t.areg 2) = some (0x11006) := by decide +kernel

/-- 95_test_vectors.md V40. -/
theorem test_pea :
    after ((base.setAreg 0 0x12345678).placed [0x4850])
      (fun t => (t.areg 7, t.load 5 0x7FFC .l)) = some (0x7FFC, 0x12345678) := by decide +kernel

/-- 95_test_vectors.md V40. -/
theorem test_exg_data_address :
    after (((base.setDreg 0 0x1).setAreg 1 0x2).placed [0xC189])
      (fun t => (t.dreg 0, t.areg 1)) = some (2, 1) := by decide +kernel

/-- 95_test_vectors.md V40. -/
theorem test_exg_data :
    after (((base.setDreg 0 0x1).setDreg 1 0x2).placed [0xC141])
      (fun t => (t.dreg 0, t.dreg 1)) = some (2, 1) := by decide +kernel

/-- 95_test_vectors.md V40. -/
theorem test_exg_address :
    after (((base.setAreg 0 0x1).setAreg 1 0x2).placed [0xC149])
      (fun t => (t.areg 0, t.areg 1)) = some (2, 1) := by decide +kernel

/-- 95_test_vectors.md V40. -/
theorem test_movep_store :
    after ((((base.setDreg 0 0xAAAA1234).setAreg 0 0x4000).pokeLong 0x4000 0).placed [0x0188, 0x0000])
      (fun t => (t.wordAt 5 0x4000, t.wordAt 5 0x4002)) = some (0x1200, 0x3400) := by decide +kernel

/-- 95_test_vectors.md V40. -/
theorem test_movep_load :
    after ((((((base.setAreg 0 0x4000).poke 0x4000 0xDE).poke 0x4002 0xAD).poke 0x4004 0xBE).poke 0x4006 0xEF).placed [0x0148, 0x0001])
      (fun t => t.dreg 0) = some (0xDEADBEEF) := by decide +kernel

/-- 95_test_vectors.md V40. -/
theorem test_movem_load_word :
    after (((base.setAreg 0 0x2000).poke 0x2000 0x8000).placed [0x4C90, 0x0001])
      (fun t => (t.dreg 0, t.areg 0)) = some (0xFFFF8000, 0x2000) := by decide +kernel

/-- 95_test_vectors.md V40. -/
theorem test_movem_predecrement :
    after ((base.setDreg 0 0x5).placed [0x48E7, 0x8001])
      (fun t => (t.load 5 0x7FFC .l, t.load 5 0x7FF8 .l, t.areg 7)) = some (0x8000, 5, 0x7FF8) := by decide +kernel

/-- 40_data_movement.md R167, the list of 95_test_vectors.md S1 cut to D1 and A3. -/
theorem test_movem_store :
    after ((((base.setAreg 0 0x2000).setDreg 1 0x11).setAreg 3 0x33).placed [0x48D0, 0x0802])
      (fun t => (t.load 5 0x2000 .l, t.load 5 0x2004 .l, t.areg 0)) = some (0x11, 0x33, 0x2000) := by decide +kernel

/-- 40_data_movement.md R169: the final address overwrites a register of the list. -/
theorem test_movem_load_post :
    after ((((base.setAreg 0 0x2000).pokeLong 0x2000 0x7).pokeLong 0x2004 0x9).placed [0x4CD8, 0x0101])
      (fun t => (t.dreg 0, t.areg 0)) = some (7, 0x2008) := by decide +kernel

/-- 95_test_vectors.md V40. -/
theorem test_link :
    after ((base.setAreg 6 0x11111111).placed [0x4E56, 0xFFF8])
      (fun t => (t.load 5 0x7FFC .l, t.areg 6, t.areg 7)) = some (0x11111111, 0x7FFC, 0x7FF4) := by decide +kernel

/-- 95_test_vectors.md V40. -/
theorem test_unlk :
    after ((((base.setAreg 6 0x7FFC).poke 0x7FFC 0x1111).poke 0x7FFE 0x1111).placed [0x4E5E])
      (fun t => (t.areg 6, t.areg 7)) = some (0x11111111, 0x8000) := by decide +kernel

/-- 43_shift_rotate.md R266. -/
theorem test_swap :
    after ((base.setDreg 3 0xFFFF).placed [0x4843])
      (fun t => (t.dreg 3, flags t)) = some (0xFFFF0000, (false, true, false, false, false)) := by decide +kernel

/-- 95_test_vectors.md V41. -/
theorem test_ext_word :
    after ((base.setDreg 3 0x123456F0).placed [0x4883])
      (fun t => (t.dreg 3, flags t)) = some (0x1234FFF0, (false, true, false, false, false)) := by decide +kernel

/-- 95_test_vectors.md V41. -/
theorem test_ext_long :
    after ((base.setDreg 3 0x12347FF0).placed [0x48C3])
      (fun t => (t.dreg 3, flags t)) = some (0x7FF0, (false, false, false, false, false)) := by decide +kernel

/-- 95_test_vectors.md V41. -/
theorem test_add_byte :
    after (((base.setDreg 0 0x7F).setDreg 1 0xFFFFFF01).placed [0xD200])
      (fun t => (t.dreg 1, flags t)) = some (0xFFFFFF80, (false, true, false, true, false)) := by decide +kernel

/-- 95_test_vectors.md V41. -/
theorem test_add_word :
    after (((base.setDreg 0 0xFFFF).setDreg 1 0x10001).placed [0xD240])
      (fun t => (t.dreg 1, flags t)) = some (0x10000, (true, false, true, false, true)) := by decide +kernel

/-- 95_test_vectors.md V41. -/
theorem test_add_memory :
    after ((((base.setAreg 0 0x2000).poke 0x2000 0x1).setDreg 1 0x1).placed [0xD350])
      (fun t => (t.wordAt 5 0x2000, flags t)) = some (2, (false, false, false, false, false)) := by decide +kernel

/-- 95_test_vectors.md V41. -/
theorem test_adda :
    after (((base.setDreg 0 0xFFFF).setAreg 1 0x1000).placed [0xD2C0])
      (fun t => (t.areg 1, t.sr)) = some (0xFFF, 0x2000) := by decide +kernel

/-- 95_test_vectors.md V41. -/
theorem test_addi :
    after ((base.setDreg 0 0x1).placed [0x0640, 0x1234])
      (fun t => (t.dreg 0, t.pc, t.ccr)) = some (0x1235, 0x1004, base.ccr) := by decide +kernel

/-- 95_test_vectors.md V41. -/
theorem test_addq_address :
    after ((base.setAreg 0 0xFFFFFFFC).placed [0x5088])
      (fun t => (t.areg 0, t.sr)) = some (4, 0x2000) := by decide +kernel

/-- 95_test_vectors.md V41. -/
theorem test_addq :
    after ((base.setDreg 0 0xFF).placed [0x5200])
      (fun t => (t.dreg 0, flags t)) = some (0, (true, false, true, false, true)) := by decide +kernel

/-- 95_test_vectors.md V41. -/
theorem test_addx_z_stays_clear :
    after (base.placed [0xD300])
      (fun t => (t.dreg 1, flags t)) = some (0, (false, false, false, false, false)) := by decide +kernel

/-- 95_test_vectors.md V41. -/
theorem test_addx_z_stays_set :
    after (((base.setDreg 0 0xFF).flagged true false true false false).placed [0xD300])
      (fun t => (t.dreg 1, flags t)) = some (0, (true, false, true, false, true)) := by decide +kernel

/-- 95_test_vectors.md V41. -/
theorem test_sub_long :
    after ((base.setDreg 0 0x1).placed [0x9280])
      (fun t => (t.dreg 1, flags t)) = some (0xFFFFFFFF, (true, true, false, false, true)) := by decide +kernel

/-- 95_test_vectors.md V41. -/
theorem test_sub_byte :
    after (((base.setDreg 0 0x1).setDreg 1 0x80).placed [0x9200])
      (fun t => (t.dreg 1, flags t)) = some (0x7F, (false, false, false, true, false)) := by decide +kernel

/-- 41_integer_arithmetic.md R197: the destination minus the register. -/
theorem test_sub_memory :
    after ((((base.setAreg 0 0x2000).poke 0x2000 0x3).setDreg 1 0x1).placed [0x9350])
      (fun t => (t.wordAt 5 0x2000, flags t)) = some (2, (false, false, false, false, false)) := by decide +kernel

/-- 41_integer_arithmetic.md R199. -/
theorem test_subi :
    after ((base.setDreg 0 0x1).placed [0x0440, 0x0002])
      (fun t => (t.dreg 0, flags t)) = some (0xFFFF, (true, true, false, false, true)) := by decide +kernel

/-- 95_test_vectors.md V41. -/
theorem test_subq :
    after ((base.setDreg 0 0x10000).placed [0x5340])
      (fun t => (t.dreg 0, flags t)) = some (0x1FFFF, (true, true, false, false, true)) := by decide +kernel

/-- 95_test_vectors.md V41. -/
theorem test_suba :
    after ((base.setDreg 0 0x1).placed [0x91C0])
      (fun t => (t.areg 0, t.sr)) = some (0xFFFFFFFF, 0x2000) := by decide +kernel

/-- 95_test_vectors.md V41. -/
theorem test_subx :
    after (((base).flagged true false true false false).placed [0x9380])
      (fun t => (t.dreg 1, flags t)) = some (0xFFFFFFFF, (true, true, false, false, true)) := by decide +kernel

/-- 95_test_vectors.md V41. -/
theorem test_neg :
    after ((base.setDreg 0 0x8000).placed [0x4440])
      (fun t => (t.dreg 0, flags t)) = some (0x8000, (true, true, false, true, true)) := by decide +kernel

/-- 95_test_vectors.md V41. -/
theorem test_negx :
    after (((base).flagged true false true false false).placed [0x4000])
      (fun t => (t.dreg 0, flags t)) = some (0xFF, (true, true, false, false, true)) := by decide +kernel

/-- 95_test_vectors.md V41. -/
theorem test_clr :
    after (((base.setDreg 0 0x12345678).flagged true false false false false).placed [0x4280])
      (fun t => (t.dreg 0, flags t)) = some (0, (true, false, true, false, false)) := by decide +kernel

/-- 95_test_vectors.md V41. -/
theorem test_cmp :
    after ((base.setDreg 0 0x1).placed [0xB200])
      (fun t => (t.dreg 1, flags t)) = some (0, (false, true, false, false, true)) := by decide +kernel

/-- 95_test_vectors.md V41. -/
theorem test_cmpi :
    after ((base.setDreg 0 0x7F).placed [0x0C00, 0x0080])
      (fun t => (t.dreg 0, flags t)) = some (0x7F, (false, true, false, true, true)) := by decide +kernel

/-- 95_test_vectors.md V41. -/
theorem test_cmpa :
    after (((base.setDreg 0 0x8000).setAreg 1 0x8000).placed [0xB2C0])
      (fun t => (t.areg 1, flags t)) = some (0x8000, (false, false, false, false, true)) := by decide +kernel

/-- 95_test_vectors.md V41. -/
theorem test_cmpm :
    after ((((base.setAreg 0 0x2000).poke 0x2000 0x3).poke 0x2002 0x5).placed [0xB148])
      (fun t => (t.areg 0, flags t)) = some (0x2004, (false, false, false, false, false)) := by decide +kernel

/-- 95_test_vectors.md V41. -/
theorem test_mulu :
    after (((base.setDreg 0 0x1FFFF).setDreg 1 0xFFFF).placed [0xC0C1])
      (fun t => (t.dreg 0, flags t)) = some (0xFFFE0001, (false, true, false, false, false)) := by decide +kernel

/-- 95_test_vectors.md V41. -/
theorem test_muls :
    after (((base.setDreg 0 0x8000).setDreg 1 0x2).placed [0xC1C1])
      (fun t => (t.dreg 0, flags t)) = some (0xFFFF0000, (false, true, false, false, false)) := by decide +kernel

/-- 95_test_vectors.md V41. -/
theorem test_divu :
    after (((base.setDreg 0 0x10003).setDreg 1 0x2).placed [0x80C1])
      (fun t => (t.dreg 0, flags t)) = some (0x18001, (false, true, false, false, false)) := by decide +kernel

/-- 95_test_vectors.md V41. N and Z are open. -/
theorem test_divu_overflow :
    after (((base.setDreg 0 0x20000).setDreg 1 0x2).placed [0x80C1])
      (fun t => (t.dreg 0, t.pc)) = some (0x20000, 0x1002) := by decide +kernel

/-- 95_test_vectors.md V41. -/
theorem test_divs :
    after (((base.setDreg 0 0x7).setDreg 1 0xFFFE).placed [0x81C1])
      (fun t => (t.dreg 0, flags t)) = some (0x1FFFD, (false, true, false, false, false)) := by decide +kernel

/-- 95_test_vectors.md V42. -/
theorem test_and :
    after (((base.setDreg 0 0xFF00).setDreg 1 0x12340FF0).placed [0xC240])
      (fun t => (t.dreg 1, flags t)) = some (0x12340F00, (false, false, false, false, false)) := by decide +kernel

/-- 42_logical.md R231. -/
theorem test_and_memory :
    after ((((base.setAreg 0 0x2000).poke 0x2000 0xF0F0).setDreg 1 0x8080).placed [0xC350])
      (fun t => (t.wordAt 5 0x2000, flags t)) = some (0x8080, (false, true, false, false, false)) := by decide +kernel

/-- 95_test_vectors.md V42. -/
theorem test_or :
    after (((base.setDreg 0 0x3).setDreg 1 0xA8).placed [0x8200])
      (fun t => (t.dreg 1, flags t)) = some (0xAB, (false, true, false, false, false)) := by decide +kernel

/-- 95_test_vectors.md V42. -/
theorem test_or_memory :
    after ((((base.setAreg 0 0x2000).poke 0x2000 0xF0).setDreg 1 0xF00).placed [0x8350])
      (fun t => (t.wordAt 5 0x2000, flags t)) = some (0xFF0, (false, false, false, false, false)) := by decide +kernel

/-- 95_test_vectors.md V42. -/
theorem test_eor :
    after ((base.setDreg 0 0x1234ABCD).placed [0xB140])
      (fun t => (t.dreg 0, flags t)) = some (0x12340000, (false, false, true, false, false)) := by decide +kernel

/-- 95_test_vectors.md V42. -/
theorem test_andi :
    after ((base.setDreg 1 0xAD).placed [0x0201, 0x00F8])
      (fun t => (t.dreg 1, flags t)) = some (0xA8, (false, true, false, false, false)) := by decide +kernel

/-- 95_test_vectors.md V42. The upper byte of the immediate word is ignored. -/
theorem test_ori :
    after (base.placed [0x0000, 0xFF12])
      (fun t => (t.dreg 0, flags t)) = some (0x12, (false, false, false, false, false)) := by decide +kernel

/-- 95_test_vectors.md V42. -/
theorem test_eori :
    after ((base.setDreg 0 0xFFFFFFFF).placed [0x0A80, 0xFFFF, 0xFFFF])
      (fun t => (t.dreg 0, t.pc)) = some (0, 0x1006) := by decide +kernel

/-- 95_test_vectors.md V42. -/
theorem test_not :
    after ((base.setDreg 0 0x12345600).placed [0x4600])
      (fun t => (t.dreg 0, flags t)) = some (0x123456FF, (false, true, false, false, false)) := by decide +kernel

/-- 95_test_vectors.md V42. -/
theorem test_tst :
    after ((base.setDreg 0 0xFFFF0000).placed [0x4A40])
      (fun t => (t.dreg 0, flags t)) = some (0xFFFF0000, (false, false, true, false, false)) := by decide +kernel

/-- 95_test_vectors.md V42. -/
theorem test_scc_true :
    after (((base.setDreg 0 0x12345678).flagged false false true false false).placed [0x57C0])
      (fun t => t.dreg 0) = some (0x123456FF) := by decide +kernel

/-- 95_test_vectors.md V42. -/
theorem test_scc_false :
    after (((base).flagged false true false true false).placed [0x5DC0])
      (fun t => t.dreg 0) = some (0) := by decide +kernel

/-- 48_multiprocessor.md R354. -/
theorem test_tas_register :
    after ((base.setDreg 3 0x12345600).placed [0x4AC3])
      (fun t => (t.dreg 3, flags t)) = some (0x12345680, (false, false, true, false, false)) := by decide +kernel

/-- 48_multiprocessor.md R354. -/
theorem test_tas_memory :
    after ((((base.setAreg 0 0x2000).poke 0x2000 0).flagged true true true true true).placed [0x4AD0])
      (fun t => (t.byteAt 5 0x2000, flags t)) = some (0x80, (true, false, true, false, false)) := by decide +kernel

/-- 43_shift_rotate.md R266. -/
theorem test_asl :
    after ((base.setDreg 0 0x101).placed [0xE140])
      (fun t => (t.dreg 0, flags t)) = some (0x100, (true, false, false, true, true)) := by decide +kernel

/-- 43_shift_rotate.md R266. -/
theorem test_asr :
    after (((base.setDreg 0 0x8000).setDreg 1 0x14).placed [0xE260])
      (fun t => (t.dreg 0, flags t)) = some (0xFFFF, (true, true, false, false, true)) := by decide +kernel

/-- 43_shift_rotate.md R266. -/
theorem test_lsl :
    after (((base.setDreg 0 0xFFFF).setDreg 1 0x11).placed [0xE368])
      (fun t => (t.dreg 0, flags t)) = some (0, (false, false, true, false, false)) := by decide +kernel

/-- 43_shift_rotate.md R266. -/
theorem test_lsr :
    after ((base.setDreg 0 0x80000001).placed [0xE288])
      (fun t => (t.dreg 0, flags t)) = some (0x40000000, (true, false, false, false, true)) := by decide +kernel

/-- 43_shift_rotate.md R266. -/
theorem test_rol :
    after ((base.setDreg 0 0x81).placed [0xE318])
      (fun t => (t.dreg 0, flags t)) = some (3, (false, false, false, false, true)) := by decide +kernel

/-- 43_shift_rotate.md R266. -/
theorem test_ror :
    after ((base.setDreg 0 0x1234).placed [0xE858])
      (fun t => (t.dreg 0, flags t)) = some (0x4123, (false, false, false, false, false)) := by decide +kernel

/-- 43_shift_rotate.md R266. -/
theorem test_roxl :
    after (((base.setDreg 0 0x80).flagged true false false false false).placed [0xE310])
      (fun t => (t.dreg 0, flags t)) = some (1, (true, false, false, false, true)) := by decide +kernel

/-- 43_shift_rotate.md R266. -/
theorem test_roxl_count_zero :
    after (((base.setDreg 0 0x5).flagged true false false false false).placed [0xE3B0])
      (fun t => (t.dreg 0, flags t)) = some (5, (true, false, false, false, true)) := by decide +kernel

/-- 95_test_vectors.md V43. -/
theorem test_roxr :
    after (((base).flagged true false false false false).placed [0xE250])
      (fun t => (t.dreg 0, flags t)) = some (0x8000, (false, true, false, false, false)) := by decide +kernel

/-- 95_test_vectors.md V43. -/
theorem test_asl_memory :
    after (((base.setAreg 0 0x2000).poke 0x2000 0x4000).placed [0xE1D0])
      (fun t => (t.wordAt 5 0x2000, flags t)) = some (0x8000, (false, true, false, true, false)) := by decide +kernel

/-- 43_shift_rotate.md R252 and the operation's rule, by hand on $8001. -/
theorem test_asr_memory :
    after ((((base.setAreg 0 0x2000).poke 0x2000 0x8001).flagged false false false false false).placed [0xE0D0])
      (fun t => (t.wordAt 5 0x2000, flags t)) = some (0xC000, (true, true, false, false, true)) := by decide +kernel

/-- 43_shift_rotate.md R252 and the operation's rule, by hand on $8001. -/
theorem test_lsl_memory :
    after ((((base.setAreg 0 0x2000).poke 0x2000 0x8001).flagged false false false false false).placed [0xE3D0])
      (fun t => (t.wordAt 5 0x2000, flags t)) = some (0x2, (true, false, false, false, true)) := by decide +kernel

/-- 43_shift_rotate.md R252 and the operation's rule, by hand on $8001. -/
theorem test_lsr_memory :
    after ((((base.setAreg 0 0x2000).poke 0x2000 0x8001).flagged false false false false false).placed [0xE2D0])
      (fun t => (t.wordAt 5 0x2000, flags t)) = some (0x4000, (true, false, false, false, true)) := by decide +kernel

/-- 43_shift_rotate.md R252 and the operation's rule, by hand on $8001. -/
theorem test_rol_memory :
    after ((((base.setAreg 0 0x2000).poke 0x2000 0x8001).flagged false false false false false).placed [0xE7D0])
      (fun t => (t.wordAt 5 0x2000, flags t)) = some (0x3, (false, false, false, false, true)) := by decide +kernel

/-- 43_shift_rotate.md R252 and the operation's rule, by hand on $8001. -/
theorem test_ror_memory :
    after ((((base.setAreg 0 0x2000).poke 0x2000 0x8001).flagged false false false false false).placed [0xE6D0])
      (fun t => (t.wordAt 5 0x2000, flags t)) = some (0xC000, (false, true, false, false, true)) := by decide +kernel

/-- 43_shift_rotate.md R252 and the operation's rule, by hand on $8001. -/
theorem test_roxl_memory :
    after ((((base.setAreg 0 0x2000).poke 0x2000 0x8001).flagged true false false false false).placed [0xE5D0])
      (fun t => (t.wordAt 5 0x2000, flags t)) = some (0x3, (true, false, false, false, true)) := by decide +kernel

/-- 43_shift_rotate.md R252 and the operation's rule, by hand on $8001. -/
theorem test_roxr_memory :
    after ((((base.setAreg 0 0x2000).poke 0x2000 0x8001).flagged false false false false false).placed [0xE4D0])
      (fun t => (t.wordAt 5 0x2000, flags t)) = some (0x4000, (true, false, false, false, true)) := by decide +kernel

/-- 44_bit_manipulation.md, its vectors. -/
theorem test_btst_static :
    after ((base.setDreg 0 0x1).placed [0x0800, 0x0020])
      (fun t => t.ccr.z) = some (false) := by decide +kernel

/-- 44_bit_manipulation.md, its vectors. -/
theorem test_btst_dynamic :
    after (((base.setDreg 1 0x1F).setDreg 0 0x7FFFFFFF).placed [0x0300])
      (fun t => (t.dreg 0, t.ccr.z)) = some (0x7FFFFFFF, true) := by decide +kernel

/-- 44_bit_manipulation.md, its vectors. -/
theorem test_bset_static :
    after (((base.setAreg 7 0x4000).poke 0x4000 0xFE00).placed [0x08DF, 0x0000])
      (fun t => (t.byteAt 5 0x4000, t.areg 7, t.ccr.z)) = some (0xFF, 0x4002, true) := by decide +kernel

/-- 95_test_vectors.md V44 to V48. -/
theorem test_bset_dynamic :
    after ((base.setDreg 1 0xFFFFFFE0).placed [0x03C0])
      (fun t => (t.dreg 0, t.ccr.z)) = some (1, true) := by decide +kernel

/-- 44_bit_manipulation.md, its vectors. -/
theorem test_bclr_dynamic :
    after (((base.setDreg 2 0x1F).setDreg 3 0x80000000).placed [0x0583])
      (fun t => (t.dreg 3, t.ccr.z)) = some (0, false) := by decide +kernel

/-- 95_test_vectors.md V44 to V48. -/
theorem test_bclr_static :
    after (((base.setAreg 0 0x2000).poke 0x2000 0xFF00).placed [0x0890, 0x0007])
      (fun t => (t.byteAt 5 0x2000, t.ccr.z)) = some (0x7F, false) := by decide +kernel

/-- 44_bit_manipulation.md, its vectors. -/
theorem test_bchg_static :
    after (((base.setAreg 1 0x3000).poke 0x3000 0x200).placed [0x0851, 0x0009])
      (fun t => (t.byteAt 5 0x3000, t.ccr.z)) = some (0, false) := by decide +kernel

/-- 44_bit_manipulation.md, its vectors. -/
theorem test_bchg_dynamic :
    after ((base.setDreg 0 0x4).placed [0x0140])
      (fun t => (t.dreg 0, t.ccr.z)) = some (0x14, true) := by decide +kernel

/-- 45_bcd.md R288. N and V are open. -/
theorem test_abcd :
    after ((((base.setDreg 1 0x25).setDreg 2 0xFFFFFF17).flagged false false true false false).placed [0xC501])
      (fun t => t.dreg 2) = some (0xFFFFFF42) := by decide +kernel

/-- 45_bcd.md R288. N and V are open. -/
theorem test_abcd_memory :
    after (((((({ base with pc := 0x3000 }.setAreg 0 0x1002).setAreg 1 0x2002).poke 0x1000 0x1999).poke 0x2000 0x1).flagged false false true false false).placed [0xC308])
      (fun t => (t.byteAt 5 0x2001, t.areg 0, t.areg 1)) = some (0, 0x1001, 0x2001) := by decide +kernel

/-- 45_bcd.md R288. N and V are open. -/
theorem test_sbcd :
    after (((base.setDreg 1 0x1).flagged false false true false false).placed [0x8501])
      (fun t => t.dreg 2) = some (0x99) := by decide +kernel

/-- 45_bcd.md R288. N and V are open. -/
theorem test_nbcd :
    after (((base.setDreg 0 0x25).flagged true false true false false).placed [0x4800])
      (fun t => t.dreg 0) = some (0x74) := by decide +kernel

/-- 46_program_control.md R314. -/
theorem test_bra :
    after (base.placed [0x60FE])
      (fun t => t.pc) = some (0x1000) := by decide +kernel

/-- 46_program_control.md R314. -/
theorem test_bra_word :
    after (base.placed [0x6000, 0x0010])
      (fun t => t.pc) = some (0x1012) := by decide +kernel

/-- 46_program_control.md R314. -/
theorem test_bcc_taken :
    after (((base).flagged false true false true false).placed [0x6E04])
      (fun t => t.pc) = some (0x1006) := by decide +kernel

/-- 46_program_control.md R314. -/
theorem test_bcc_not_taken :
    after (base.placed [0x6700, 0x0010])
      (fun t => t.pc) = some (0x1004) := by decide +kernel

/-- 46_program_control.md R314. -/
theorem test_bsr :
    after (base.placed [0x6100, 0x0100])
      (fun t => (t.pc, t.areg 7, t.load 5 0x7FFC .l)) = some (0x1102, 0x7FFC, 0x1004) := by decide +kernel

/-- 46_program_control.md R314. -/
theorem test_dbcc_branches :
    after ((base.setDreg 0 0x10002).placed [0x51C8, 0xFFFE])
      (fun t => (t.dreg 0, t.pc)) = some (0x10001, 0x1000) := by decide +kernel

/-- 46_program_control.md R314. -/
theorem test_dbcc_falls_through :
    after ((base.setDreg 0 0x10000).placed [0x51C8, 0xFFFE])
      (fun t => (t.dreg 0, t.pc)) = some (0x1FFFF, 0x1004) := by decide +kernel

/-- 46_program_control.md R314. -/
theorem test_jmp :
    after ((base.setDreg 0 0x4).placed [0x4EFB, 0x0002])
      (fun t => t.pc) = some (0x1008) := by decide +kernel

/-- 95_test_vectors.md V44 to V48. -/
theorem test_jsr :
    after (base.placed [0x4EBA, 0x0004])
      (fun t => (t.pc, t.areg 7, t.load 5 0x7FFC .l)) = some (0x1006, 0x7FFC, 0x1004) := by decide +kernel

/-- 95_test_vectors.md V44 to V48. -/
theorem test_nop :
    after (base.placed [0x4E71])
      (fun t => (t.pc, t.sr)) = some (0x1002, 0x2000) := by decide +kernel

/-- 46_program_control.md R314. -/
theorem test_rts :
    after (((base.setAreg 7 0x7FFC).pokeLong 0x7FFC 0x1002).placed [0x4E75])
      (fun t => (t.pc, t.areg 7)) = some (0x1002, 0x8000) := by decide +kernel

/-- 46_program_control.md R314. -/
theorem test_rtr :
    after ((((base.setAreg 7 0x7FFA).poke 0x7FFA 0xFF15).pokeLong 0x7FFC 0x1002).placed [0x4E77])
      (fun t => (t.pc, t.areg 7, t.sr)) = some (0x1002, 0x8000, 0x2015) := by decide +kernel

/-- 46_program_control.md R314. -/
theorem test_rte :
    after ((((base.setAreg 7 0x7FFA).poke 0x7FFA 0x4).pokeLong 0x7FFC 0x1002).placed [0x4E73])
      (fun t => (t.pc, t.ssp, t.areg 7, t.sr)) = some (0x1002, 0x8000, 0x6000, 4) := by decide +kernel

/-- 47_system_control.md R344. -/
theorem test_ori_to_ccr :
    after (({ base with sr := 0x0 }).placed [0x003C, 0x00FF])
      (fun t => t.sr) = some (0x1F) := by decide +kernel

/-- 47_system_control.md R344. -/
theorem test_andi_to_ccr :
    after (({ base with sr := 0x271F }).placed [0x023C, 0x0000])
      (fun t => t.sr) = some (0x2700) := by decide +kernel

/-- 47_system_control.md R344. -/
theorem test_eori_to_ccr :
    after (({ base with sr := 0x4 }).placed [0x0A3C, 0xFF04])
      (fun t => t.sr) = some (0) := by decide +kernel

/-- 47_system_control.md R344. -/
theorem test_andi_to_sr :
    after (({ base with sr := 0x2015 }).placed [0x027C, 0xDFFF])
      (fun t => (t.sr, t.areg 7, t.ssp)) = some (0x15, 0x6000, 0x8000) := by decide +kernel

/-- 47_system_control.md R344. -/
theorem test_eori_to_sr :
    after (({ base with sr := 0x2000 }).placed [0x0A7C, 0xFFFF])
      (fun t => t.sr) = some (0x871F) := by decide +kernel

/-- 47_system_control.md R327. -/
theorem test_ori_to_sr :
    after (({ base with sr := 0x2000 }).placed [0x007C, 0x8700])
      (fun t => t.sr) = some (0xA700) := by decide +kernel

/-- 47_system_control.md R344. -/
theorem test_ori_to_sr_user :
    after ((({ base with sr := 0x0 }).pokeLong 0x20 0x3800).placed [0x007C, 0x2000])
      (fun t => (t.sr, t.load 5 0x7FFC .l, t.wordAt 5 0x7FFA, t.pc)) = some (0x2000, 0x1000, 0, 0x3800) := by decide +kernel

/-- 47_system_control.md R344. -/
theorem test_move_to_sr :
    after ((({ base with sr := 0x2700 }).setDreg 1 0xFFFF).placed [0x46C1])
      (fun t => t.sr) = some (0xA71F) := by decide +kernel

/-- 47_system_control.md R344. -/
theorem test_move_to_ccr :
    after (({ base with sr := 0x2300 }).placed [0x44FC, 0x0015])
      (fun t => (t.sr, t.pc)) = some (0x2315, 0x1004) := by decide +kernel

/-- 47_system_control.md R344. -/
theorem test_move_from_sr :
    after (({ base with sr := 0x9 }).placed [0x40C0])
      (fun t => (t.dreg 0, t.sr)) = some (9, 9) := by decide +kernel

/-- 47_system_control.md R344. -/
theorem test_move_to_usp :
    after (base.placed [0x4E67])
      (fun t => t.usp) = some (0x8000) := by decide +kernel

/-- 95_test_vectors.md V44 to V48. -/
theorem test_move_from_usp :
    after (base.placed [0x4E68])
      (fun t => t.areg 0) = some (0x6000) := by decide +kernel

/-- 47_system_control.md R339. -/
theorem test_reset :
    after (base.placed [0x4E70])
      (fun t => (t.deviceResets, t.pc, t.sr)) = some (1, 0x1002, 0x2000) := by decide +kernel

/-- 47_system_control.md R344. -/
theorem test_stop :
    after (({ base with sr := 0x2700 }).placed [0x4E72, 0x2000])
      (fun t => (t.sr, t.run, t.pc)) = some (0x2000, .stopped, 0x1004) := by decide +kernel

/-- 47_system_control.md R344. -/
theorem test_stop_user :
    after ((({ base with sr := 0x0 }).pokeLong 0x20 0x3800).placed [0x4E72, 0x0000])
      (fun t => (t.load 5 0x7FFC .l, t.run, t.pc)) = some (0x1000, .running, 0x3800) := by decide +kernel

/-- 95_test_vectors.md V60. Z, V and C are open. -/
theorem test_chk_in_bounds :
    after (((base.setDreg 0 0x10).setDreg 1 0x10).placed [0x4181])
      (fun t => t.pc) = some (0x1002) := by decide +kernel

/-- 95_test_vectors.md V60. -/
theorem test_trap :
    after ((({ base with sr := 0x0 }).pokeLong 0x94 0x5500).placed [0x4E45])
      (fun t => (t.pc, t.sr, t.load 5 0x7FFC .l, t.wordAt 5 0x7FFA)) = some (0x5500, 0x2000, 0x1002, 0) := by decide +kernel

/-- 95_test_vectors.md V60. -/
theorem test_trapv :
    after ((({ base with sr := 0x2 }).pokeLong 0x1c 0x3700).placed [0x4E76])
      (fun t => (t.pc, t.sr, t.wordAt 5 0x7FFA)) = some (0x3700, 0x2002, 2) := by decide +kernel

/-- 95_test_vectors.md V60. -/
theorem test_trapv_no_overflow :
    after (base.placed [0x4E76])
      (fun t => (t.pc, t.ssp)) = some (0x1002, 0x8000) := by decide +kernel

/-- 95_test_vectors.md V60. -/
theorem test_illegal :
    after ((({ base with sr := 0x8000 }).pokeLong 0x10 0x3400).placed [0x4AFC])
      (fun t => (t.pc, t.sr, t.load 5 0x7FFC .l, t.wordAt 5 0x7FFA, t.tracePending)) = some (0x3400, 0x2000, 0x1000, 0x8000, false) := by decide +kernel

/-- 95_test_vectors.md V60. -/
theorem test_line_a :
    after ((({ base with sr := 0x2015 }).pokeLong 0x28 0x3A00).placed [0xA000])
      (fun t => (t.pc, t.sr, t.load 5 0x7FFC .l)) = some (0x3A00, 0x2015, 0x1000) := by decide +kernel

/-- 95_test_vectors.md V60. -/
theorem test_line_f :
    after ((({ base with sr := 0x0 }).pokeLong 0x2c 0x3B00).placed [0xF123])
      (fun t => (t.pc, t.sr)) = some (0x3B00, 0x2000) := by decide +kernel

/-- 95_test_vectors.md V60. -/
theorem test_interrupt :
    after (({ ({ base with sr := 0x2200 }).pokeLong 0x6c 0x4B00 with inputs := [⟨none, 3, .autovector⟩] }).placed [0x4E71])
      (fun t => (t.pc, t.sr, t.load 5 0x7FFC .l, t.wordAt 5 0x7FFA)) = some (0x4B00, 0x2300, 0x1000, 0x2200) := by decide +kernel

/-- 95_test_vectors.md V60. -/
theorem test_interrupt_masked :
    after (({ base with sr := 0x2200, inputs := [⟨none, 2, .autovector⟩] }).placed [0x4E71])
      (fun t => t.pc) = some (0x1002) := by decide +kernel

/-- 95_test_vectors.md V60. -/
theorem test_interrupt_level_seven :
    after (({ ({ base with sr := 0x2700 }).pokeLong 0x7c 0x4F00 with inputs := [⟨none, 7, .autovector⟩] }).placed [0x4E71])
      (fun t => (t.pc, t.sr, t.nmiPending)) = some (0x4F00, 0x2700, false) := by decide +kernel

/-- 95_test_vectors.md V60. -/
theorem test_trace :
    after (({ ({ base with sr := 0x8000 }).pokeLong 0x24 0x3900 with tracePending := true, pc := 0x1002 }).placed [0x4E71])
      (fun t => (t.pc, t.sr, t.load 5 0x7FFC .l, t.wordAt 5 0x7FFA)) = some (0x3900, 0x2000, 0x1002, 0x8000) := by decide +kernel

/-- 95_test_vectors.md V60. -/
theorem test_external_reset :
    after (({ ((base.poke 2 0x8000).poke 6 0x400) with inputs := [⟨some 0, 0, .autovector⟩] }).placed [0x4E71])
      (fun t => (t.pc, t.ssp)) = some (0x400, 0x8000) := by decide +kernel

/-- 60_exceptions.md R375, R430: a reset after two bus cycles, in the middle of MOVE.L D0,(A0); the second word of the
operand has not been written, and the reset sequence has run. -/
theorem test_reset_within_instruction :
    after (({ (((base.pokeLong 0 0x8000).pokeLong 4 0x400).setAreg 0 0x2000).pokeLong 0x2000 0x11112222 with
        inputs := [⟨some 2, 0, .autovector⟩] }).placed [0x2080])
      (fun t => (t.pc, t.ssp, t.wordAt 5 0x2002, t.resetIn, t.inputs)) = some (0x400, 0x8000, 0x2222, none, []) := by
  decide +kernel

/-- 70_reset_and_hazards.md R433: a reset ends a bus cycle that nothing answers, here the first of the next instruction. -/
theorem test_reset_ends_hang :
    after { (base.pokeLong 0 0x8000).pokeLong 4 0x400 with
        inputs := [⟨some 9, 0, .autovector⟩],
        platform := { Platform.plain with memMap := [⟨0x1000, 0x1FFF, [5, 6], 0, .silent, .silent⟩] } }
      (fun t => (t.pc, t.run)) = some (0x400, .running) := by decide +kernel

/-- 92_eei_decisions.md D30, 93_implementation_defined.md U27: an odd initial PC halts. -/
theorem test_odd_initial_pc : after { State.reset with pc := 0x1001, ssp := 0x8000 } (fun t => t.run) = some .halted := by
  decide +kernel

/-- 48_multiprocessor.md R352: a retry request in TAS is a bus error, vector 2; the same request leaves TST as it is. -/
theorem test_tas_retry :
    (after ({ (base.setAreg 0 0x2000).pokeLong 8 0x3000 with platform := { Platform.plain with
        responses := [⟨0x2000, 0x2000, [5], true, false, 0, 0, .data, true⟩] } }.placed [0x4AD0]) fun t => t.pc) =
      some 0x3000 ∧
    (after ({ (base.setAreg 0 0x2000).poke 0x2000 0x8000 with platform := { Platform.plain with
        responses := [⟨0x2000, 0x2000, [5], true, false, 0, 0, .data, true⟩] } }.placed [0x4A10])
      fun t => (t.pc, t.ccr.n)) = some (0x1002, true) := by decide +kernel

/-- 20_memory.md R82: a device is read and written like memory, with a value that is open. -/
theorem test_device :
    let s := { (base.setAreg 0 0x2000) with platform := { Platform.plain with
      memMap := [⟨0x2000, 0x20FF, [5], 0, .device, .device⟩] } }
    (after (s.placed [0x1010]) fun t => (t.pc, t.ssp)) = some (0x1002, 0x8000) ∧
    (after (s.placed [0x1080]) fun t => (t.pc, t.mem.lookup 0x2000)) = some (0x1002, none) := by decide +kernel

/-- 00_scope.md R15: the three ways in which a run ends. -/
theorem test_run_end :
    ({ base with run := .halted } : State).runEnd = some .halted ∧
    ({ base with run := .stopped } : State).runEnd = some .stopped ∧
    ({ base with platform := { Platform.plain with endPcs := [0x1002] } } : State).runEnd = none ∧
    (match State.runToEnd 9 ({ base with platform := { Platform.plain with endPcs := [0x1002] } }.placed [0x4E71]) with
      | .next t => t.runEnd | _ => none) = some .endPc := by decide +kernel

/-! ## States and operands that meet the hypotheses of the obligations

`answers` says that an operand operation answers, and what holds of its value and of the state it leaves. -/

/-- The computation answers, with a value and a state of which p holds. -/
def answers {α : Type} (m : M α) (s : State) (p : α → State → Bool) : Bool :=
  match m s with
  | .ok v t => p v t
  | .error _ _ => false

/-- Extension words 4 and $10 at PC; A0, A1 and data at $2000 and $3000. -/
def sample : State :=
  (((((base.setAreg 0 0x2000).setAreg 1 0x3000).setDreg 0 0x1234).poke 0x2000 0x4567).poke 0x3000 0x0102).placed [4, 0x10]

/-- The same in user mode. -/
def userSample : State := { sample with sr := 0 }

/-- An operand is evaluated, read and written. -/
def readsAndWrites (s : State) (sz : Size) (ea : Ea) : Bool :=
  answers (eaAddr sz ea) s fun a t => t.canRead t.dataFc a sz && t.canStore t.dataFc a sz && ea.isMemAlterable

theorem witness_DecodeInvertsEncode : Instr.wf (.move .w .pcDisp (.pre 7)) = true := by decide

theorem witness_DecodedInstructionIsWellFormed :
    (match decode 0x3401 with | .ok _ => true | .error _ => false) = true := by decide +kernel

theorem witness_RegisterModesAddress : (0 : RegNo) ≠ spReg := by decide

theorem witness_ExtensionModesAddress : (sample.canFetch && sample.freshPc) = true := by decide +kernel

theorem witness_ImmediatesFromStream :
    (sample.canFetch && sample.freshPc && sample.consumed.canFetch && sample.consumed.freshPc) = true := by decide +kernel

theorem witness_OperandReads :
    answers (eaAddr .l .pcDisp) sample (fun a t => t.canRead (t.operandFc .pcDisp) a .l) = true ∧
    answers (eaAddr .b (.pre 0)) sample (fun a t => t.canRead (t.operandFc (.pre 0)) a .b) = true ∧
    Ea.isMemory .pcDisp = true := by decide +kernel

theorem witness_LoadAfterStore : sample.platform.memMap = [] ∧ evenAddr 0xFFFFFFFE = true := by
  decide +kernel

theorem witness_MoveResult :
    answers (readEa .w (.post 0)) sample (fun v t => answers (eaAddr .w (.pre 0)) (t.setCcr (moveFlags t.ccr v))
      fun a u => u.canStore u.dataFc a .w) = true ∧ Ea.isMemAlterable (.pre 0) = true := by decide +kernel

/-- The transfers of a MOVEM list from a base address, at rising addresses. -/
def movemAll (mask : Word) (p : Nat → Bool) : Bool :=
  (movemOrder.filter fun i => mask.getLsbD i.val).zipIdx.all fun q => p q.2

theorem witness_MovemStoresRegisters :
    answers fetch16 (base.setAreg 0 0x2000 |>.placed [0xFFFF]) (fun mask s0 => answers (eaAddr .l (.ind 0)) s0 fun a s1 =>
      movemAll mask fun j => s1.canStore s1.dataFc (a + BitVec.ofNat 32 (j * 4)) .l) = true := by decide +kernel

theorem witness_MovemPredecrementStores :
    answers fetch16 (base.placed [0xFFFF]) (fun mask s0 =>
      movemAll mask fun j => s0.canStore s0.dataFc (s0.areg 7 - BitVec.ofNat 32 ((j + 1) * 2)) .w) = true := by
  decide +kernel

theorem witness_MovemLoadsRegisters_control :
    answers fetch16 (base.placed [0x8001, 0x0100]) (fun mask s0 => answers (eaAddr .w .pcDisp) s0 fun a s1 =>
      Ea.isControl .pcDisp && movemAll mask fun j => s1.canRead (s1.operandFc .pcDisp) (a + BitVec.ofNat 32 (j * 2)) .w) =
      true := by decide +kernel

theorem witness_MovemLoadsRegisters_postincrement :
    answers fetch16 (base.placed [0x8001]) (fun mask s0 =>
      movemAll mask fun j => s0.canRead s0.dataFc (s0.areg 7 + BitVec.ofNat 32 (j * 4)) .l) = true := by decide +kernel

theorem witness_MovepAlternateBytes :
    answers fetch16 sample (fun w s1 => [0, 2, 4, 6].all fun k =>
      s1.canRead s1.dataFc (s1.areg 0 + w.signExtend 32 + k) .b && s1.canStore s1.dataFc (s1.areg 0 + w.signExtend 32 + k) .b) =
      true := by decide +kernel

theorem witness_PushingInstructions :
    answers (eaAddr .l (.disp 0)) sample (fun _ s1 => s1.canStore s1.dataFc (s1.areg spReg - 4) .l &&
      Ea.isControl (.disp 0)) = true ∧
    answers (branchTarget 0) sample (fun _ s1 => s1.canStore s1.dataFc (s1.areg spReg - 4) .l) = true ∧
    answers (branchTarget 0xFE) sample (fun _ s1 => s1.canStore s1.dataFc (s1.areg spReg - 4) .l) = true := by
  decide +kernel

theorem witness_LinkAndUnlink :
    answers fetch16 sample (fun _ s1 => s1.canStore s1.dataFc (s1.areg spReg - 4) .l) = true ∧
    sample.canRead sample.dataFc (sample.areg 0) .l = true ∧ sample.canRead sample.dataFc (sample.areg 7) .l = true := by
  decide +kernel

theorem witness_AddressRegisterResult : answers (readEa .w (.post 0)) sample (fun _ _ => true) = true ∧
    answers (eaAddr .l .absW) sample (fun _ _ => Ea.isControl .absW) = true := by decide +kernel

theorem witness_ToRegisterResult : answers (readEa .l .imm) sample (fun _ _ => true) = true ∧
    answers (readEa .b (.pre 7)) sample (fun _ _ => true) = true := by decide +kernel

theorem witness_ToMemoryResult : readsAndWrites sample .l (.pre 0) = true ∧ readsAndWrites sample .b .absW = true := by
  decide +kernel

theorem witness_ImmediateResult : answers (fetchImm .w) sample (fun _ s0 => readsAndWrites s0 .w (.post 0)) = true := by
  decide +kernel

theorem witness_QuickResult : readsAndWrites sample .b (.post 7) = true ∧ quick 0 = 8 ∧ quick 7 = 7 := by decide +kernel

theorem witness_ExtendedResult :
    (sample.canRead sample.dataFc 0x1FFC .l && sample.canRead sample.dataFc 0x2FFC .l &&
      sample.canStore sample.dataFc 0x2FFC .l) = true ∧
    sample.areg 0 - stepOf .l 0 = 0x1FFC ∧ sample.areg 1 - stepOf .l 1 = 0x2FFC := by decide +kernel

theorem witness_UnaryResult : readsAndWrites sample .w (.index 1) = true := by decide +kernel

theorem witness_WriteOnlyResult :
    readsAndWrites (sample.setCcr { sample.ccr with n := false, z := true, v := false, c := false }) .l (.post 1) = true ∧
    readsAndWrites sample .b (.ind 0) = true ∧ readsAndWrites sample .w (.pre 7) = true := by decide +kernel

theorem witness_CompareResult : answers (readEa .w (.an 0)) sample (fun _ _ => true) = true ∧
    answers (fetchImm .b) sample (fun _ s0 => answers (readEa .b (.disp 0)) s0 fun _ _ => true) = true ∧
    (sample.canRead sample.dataFc (sample.areg 0) .w &&
      sample.canRead sample.dataFc ((sample.setAreg 0 (sample.areg 0 + stepOf .w 0)).areg 0) .w) = true := by decide +kernel

theorem witness_MultiplyResult : answers (readEa .w (.ind 0)) sample (fun _ _ => true) = true := by decide +kernel

/-- The quotient at each end of its range and one beyond: $FFFF and $10000, 32767, 32768, −32768 and −32769. -/
theorem witness_DivideResult :
    answers (readEa .w (.dn 0)) sample (fun v _ => decide (v ≠ 0)) = true ∧
    (0x1FFFE : Long).toNat / (2 : Word).toNat = 0xFFFF ∧ (0x20000 : Long).toNat / (2 : Word).toNat = 0x10000 ∧
    (0xFFFE : Long).toInt.tdiv (2 : Word).toInt = 32767 ∧ (0x10000 : Long).toInt.tdiv (2 : Word).toInt = 32768 ∧
    (0x10000 : Long).toInt.tdiv (0xFFFE : Word).toInt = -32768 ∧
    (0x10002 : Long).toInt.tdiv (0xFFFE : Word).toInt = -32769 := by decide +kernel

theorem witness_DivideByZeroTraps : answers (readEa .w (.dn 1)) sample (fun v s1 => decide (v = 0) && s1.canEnter 5) =
    true := by decide +kernel

theorem witness_MemoryShiftResult : readsAndWrites sample .w .absL = true := by decide +kernel

theorem witness_ShiftClosedForms : ShiftOp.roxl ≠ .asl := by decide

theorem witness_BitOnRegisterResult : answers fetch16 sample (fun _ _ => true) = true := by decide +kernel

theorem witness_BitOnMemoryResult : readsAndWrites sample .b (.ind 0) = true ∧
    answers fetch16 sample (fun w s0 => decide (w.toNat % 256 = 4) && readsAndWrites s0 .b (.post 1)) = true ∧
    answers (readEa .b .imm) sample (fun _ _ => Ea.isMemory .imm) = true ∧
    answers fetch16 sample (fun _ s0 => answers (readEa .b .pcDisp) s0 fun _ _ => Ea.isMemory .pcDisp) = true := by
  decide +kernel

theorem witness_DecimalRegisterResult : isBcd 0x99 = true ∧ isBcd 0 = true ∧ isBcd 0x0A = false ∧ isBcd 0xA0 = false ∧
    lowPart .b ((base.setDreg 0 0x99).dreg 0) = 0x99#8 := by decide +kernel

theorem witness_DecimalMemoryResult :
    (sample.canRead sample.dataFc 0x1FFF .b && sample.canRead sample.dataFc 0x2FFF .b && sample.canStore sample.dataFc 0x2FFF .b &&
      isBcd ((sample.poke 0x2FFE 0x99).byteAt sample.dataFc 0x2FFF)) = true ∧
    sample.areg 0 - stepOf .b 0 = 0x1FFF ∧ sample.areg 1 - stepOf .b 1 = 0x2FFF ∧
    answers (eaAddr .b (.ind 0)) sample (fun a t => t.canRead t.dataFc a .b && t.canStore t.dataFc a .b) = true := by
  decide +kernel

theorem witness_DecimalValues : isBcd 0x99 = true ∧ isBcd 0x00 = true := by decide

theorem witness_TestAndSetResult : answers (eaAddr .b (.pre 7)) sample (fun a t =>
    t.canRead t.dataFc a .b && t.canStore t.dataFc a .b && t.unretried t.dataFc a && Ea.isMemAlterable (.pre 7)) =
    true := by decide +kernel

/-- The platform asks for a retry of reads, or of writes, of a byte at $2000. -/
def retrying (read : Bool) : State :=
  { sample with platform := { Platform.plain with responses := [⟨0x2000, 0x2000, [1, 5], read, false, 0, 0, .data, true⟩] } }

theorem witness_TestAndSetResult_retry :
    (retrying true).canFrame .busError = true ∧ (retrying true).retries (.reading 5 0x2000 false) = true ∧
    (retrying false).canFrame .busError = true ∧ (retrying false).retries (.reading 5 0x2000 false) = false ∧
    (retrying false).canRead 5 0x2000 .b = true ∧
    (retrying false).retries (.writing 5 0x2000 false 0xC5) = true ∧ (retrying false).areg 0 = 0x2000 ∧
    (retrying false).byteAt 5 0x2000 ||| 0x80 = 0xC5 := by decide +kernel

theorem witness_BranchResult : (0xFF : Byte) ≠ 0 ∧ answers fetch16 sample (fun _ _ => true) = true ∧
    answers (branchTarget 0) sample (fun _ _ => true) = true ∧ answers (branchTarget 2) sample (fun _ _ => true) = true ∧
    answers (eaAddr .l .pcIndex) sample (fun _ _ => Ea.isControl .pcIndex) = true := by decide +kernel

theorem witness_ReturnResult : (sample.canRead sample.dataFc (sample.areg spReg) .l &&
    sample.canRead sample.dataFc (sample.areg spReg) .w && sample.canRead sample.dataFc (sample.areg spReg + 2) .l &&
    sample.supervisor) = true := by decide +kernel

theorem witness_ConditionCodeWrites : answers fetch16 sample (fun _ _ => true) = true ∧
    answers (readEa .w (.post 0)) sample (fun _ _ => true) = true := by decide +kernel

theorem witness_SupervisorResult : sample.supervisor = true ∧ answers fetch16 sample (fun _ _ => true) = true ∧
    answers (readEa .w .imm) sample (fun _ _ => true) = true := by decide +kernel

theorem witness_PrivilegeViolation : userSample.supervisor = false ∧ userSample.canEnter 8 = true := by decide +kernel

theorem witness_TrapResult : sample.canEnter (BitVec.ofNat 8 (32 + 15)) = true ∧ sample.canEnter (BitVec.ofNat 8 32) = true ∧
    sample.ccr.v = false ∧ (userSample.setCcr { userSample.ccr with v := true }).canEnter 7 = true ∧
    (userSample.setCcr { userSample.ccr with v := true }).ccr.v = true ∧
    (userSample.canEnter 4 && userSample.canEnter 10 && userSample.canEnter 11) = true := by decide +kernel

/-- The value at each bound and one beyond: 0, −1, the bound $4567 and $4568. -/
theorem witness_CheckBounds : answers (readEa .w (.ind 0)) sample (fun b s1 => decide (b = 0x4567) && s1.canEnter 6) = true ∧
    (0 : Word).toInt = 0 ∧ (0xFFFF : Word).toInt < 0 ∧ (0 : Int) ≤ (0x4567 : Word).toInt ∧
    (0x4567 : Word).toInt < (0x4568 : Word).toInt ∧ (0 : Int) ≤ (0x4568 : Word).toInt := by decide +kernel

theorem witness_ShortFrame : userSample.platform.memMap = [] ∧ userSample.canEnter 47 = true := by decide +kernel

/-- A state whose A0 is odd. -/
theorem witness_OddOperandAddressError : let s := userSample.setAreg 0 0x2001
    s.platform.memMap = [] ∧ s.canFrame .addressError = true ∧ evenAddr (s.areg 0) = false ∧ evenAddr s.pc = true ∧
    Size.w ≠ Size.b := by decide +kernel

/-- A platform that answers words at $2000 with a bus error. -/
def erring : State :=
  { sample with platform := { Platform.plain with responses :=
    [⟨0x2000, 0x2FFF, [1, 5], true, true, 0, 0, .busError, false⟩, ⟨0x2000, 0x2FFF, [5], false, true, 0, 0, .busError, false⟩] } }

theorem witness_OddOperandAddressError_busError : erring.platform.memMap = [] ∧ erring.canFrame .busError = true ∧
    evenAddr (erring.areg 0) = true ∧ evenAddr erring.pc = true ∧
    erring.answer (.reading erring.dataFc (erring.areg 0) (decide (Size.l ≠ .b))) = .busError := by decide +kernel

theorem witness_OddOperandAddressError_busError_write (w : Word) :
    erring.answer (.writing erring.dataFc (erring.areg 0) (decide (Size.l ≠ .b)) w) = .busError := by
  have h1 : erring.dataFc = 5 := by decide
  have h2 : erring.areg 0 = 0x2000 := by decide
  rw [h1, h2]
  simp [State.answer, State.response, erring, Platform.plain, Response.covers, Cycle.writing, addr24]

theorem witness_OddOperandAddressError_fetch : let s := { base with pc := 0x1001 }
    s.run = .running ∧ s.tracePending = false ∧ s.nextSample.reset = none ∧ s.sampled.acceptedLevel = none ∧
    s.window = .none ∧ evenAddr s.pc = false ∧ s.canFrame .addressError = true := by decide +kernel

theorem witness_OddStackHalts : evenAddr ({ base with ssp := 0x7FFF } : State).ssp = false ∧
    ({ base with run := .halted } : State).inputs = [] ∧ quietSample.reset = none := by decide

theorem witness_OddStackHalts_window : let s := { State.reset with pc := 0x1001 }
    s.run = .running ∧ s.tracePending = false ∧ s.nextSample.reset = none ∧ s.sampled.acceptedLevel = none ∧
    s.window ≠ .none ∧ evenAddr s.pc = false := by decide +kernel

/-- External reset with readable vectors, and with a bus error at address 0. -/
theorem witness_ExternalReset :
    (base.canRead 6 0 .l && base.canRead 6 4 .l) = true ∧
    ({ base with platform := { Platform.plain with memMap := [⟨0, 7, [6], 0, .busError, .busError⟩] } } : State).answer
      (.reading 6 0 true) = .busError ∧
    ({ base with inputs := [⟨some 0, 0, .autovector⟩] } : State).inputs = ⟨some 0, 0, .autovector⟩ :: [] := by decide +kernel

/-- RTS at $1000, cut off by a reset after its fetch. -/
def cutOff : State :=
  { ((base.pokeLong 0 0x8000).pokeLong 4 0x400 |>.placed [0x4E75]) with inputs := [⟨some 1, 0, .autovector⟩] }

theorem witness_ExternalReset_within : let smp : Sample := ⟨some 1, 0, .autovector⟩
    cutOff.inputs = smp :: [] ∧ smp.reset = some (0 + 1) ∧ cutOff.run = .running ∧ cutOff.tracePending = false ∧
    (cutOff.armed smp [] 1).sampled.acceptedLevel = none ∧ evenAddr cutOff.pc = true ∧ cutOff.freshPc = true ∧
    (match decode cutOff.nextWord with | .ok i => decide (i = .rts) | .error _ => false) = true ∧
    cutOff.platform.memMap = [] ∧ evenAddr (cutOff.areg spReg) = true ∧ cutOff.platform.responses = [] ∧
    (after cutOff fun t => (t.ssp, t.pc)) = some (0x8000, 0x400) := by decide +kernel

theorem witness_StepKeepsInvariant : State.wf (base.placed [0x4E71]) ∧ (after (base.placed [0x4E71]) fun _ => true) =
    some true := ⟨⟨by decide +kernel, by decide⟩, by decide +kernel⟩

/-- A user-mode instruction that completes, and one that traps. -/
theorem witness_UserModeConfined : userSample.supervisor = false ∧ userSample.run = .running ∧
    (match exec .nop userSample with | .next _ => true | _ => false) = true ∧
    (match exec (.trap 0) userSample with | .next t => t.supervisor | _ => false) = true := by decide +kernel

/-- The hypotheses on a step that reaches the fetch. -/
def fetches (s : State) : Bool :=
  decide (s.run = .running) && !s.tracePending && s.nextSample.reset.isNone && decide (s.sampled.acceptedLevel = none) &&
    s.canFetch && s.freshPc

theorem witness_StepRunsDecodedInstruction : fetches (base.placed [0x4E71]) = true ∧
    (base.placed [0x4E71]).nextWord = 0x4E71 ∧ (match decode 0x4E71 with | .ok i => decide (i = .nop) | _ => false) = true := by
  decide +kernel

theorem witness_UnassignedWordIsIllegal : fetches (base.placed [0x4E7A]) = true ∧ (base.placed [0x4E7A]).canEnter 4 = true ∧
    (match decode (base.placed [0x4E7A]).nextWord with | .ok _ => false | .error _ => true) = true := by decide +kernel

theorem witness_TraceIsTaken : let s := { base with tracePending := true, run := .stopped }
    s.run ≠ .halted ∧ s.tracePending = true ∧ s.nextSample.reset = none ∧ s.canEnter 9 = true := by decide +kernel

/-- Level 1 over mask 0, a remembered level 7 over mask 7, and the three answers of the acknowledge. -/
theorem witness_InterruptIsTaken :
    ({ base with inputs := [⟨none, 1, .autovector⟩] } : State).sampled.acceptedLevel = some 1 ∧
    ({ base with sr := 0x2700, inputs := [⟨none, 7, .spurious⟩] } : State).sampled.acceptedLevel = some 7 ∧
    ({ base with inputs := [⟨none, 5, .vector 0x40⟩] } : State).sampled.acceptedLevel = some 5 ∧
    (base.canEnter 25 && base.canEnter 24 && base.canEnter 0x40) = true := by decide +kernel

theorem witness_InterruptAcceptance :
    ({ base with sr := 0x2700, ipl := 7, inputs := [⟨none, 7, .autovector⟩] } : State).mask = 7 ∧
    ({ base with run := .stopped } : State).sampled.acceptedLevel = none := by decide +kernel

end Sys2Proof.Tests
end

/-! # The invariant `State.wf`: reset meets it and every step keeps it (10_state.md R39, R50)

Memory stays canonical and the unimplemented bits of SR stay 0. A step may end in a computation that was cut off, whose
state the model goes on with, so what each operation keeps is stated of the state in which it ends, answered or not. -/

namespace Sys2Proof.Machine

/-! ## What a computation keeps -/

/-- The state in which a computation ends, whether it answers or is cut off. -/
def finalState {α : Type} : EStateM.Result Abort State α → State
  | .ok _ s => s
  | .error _ s => s

/-- From every state with the property, the computation ends in one with it, whether it answers or is cut off. -/
def Keeps {α : Type} (P : State → Prop) (m : M α) : Prop := ∀ s, P s → P (finalState (m s))

section Keeps

variable {α β : Type} {P : State → Prop}

theorem Keeps.of_ok {m : M α} (h : Keeps P m) {s t : State} {a : α} (hs : P s) (hm : m s = .ok a t) : P t := by
  simpa [hm, finalState] using h s hs

theorem Keeps.of_error {m : M α} (h : Keeps P m) {s t : State} {x : Abort} (hs : P s) (hm : m s = .error x t) :
    P t := by
  simpa [hm, finalState] using h s hs

theorem keeps_pure (a : α) : Keeps P (pure a : M α) := fun _ hs => hs

theorem keeps_abort (x : Abort) : Keeps P (abort x : M α) := fun _ hs => hs

theorem keeps_look (f : State → α) : Keeps P (look f) := fun _ hs => hs

theorem keeps_hang : Keeps P (hang : M α) := fun _ hs => hs

theorem keeps_update {f : State → State} (h : ∀ s, P s → P (f s)) : Keeps P (update f) := h

theorem Keeps.bind {m : M α} {f : α → M β} (hm : Keeps P m) (hf : ∀ a, Keeps P (f a)) : Keeps P (m >>= f) := by
  intro s hs
  rw [run_bind]
  cases h : m s with
  | ok a t => exact hf a t (hm.of_ok hs h)
  | error x t => exact hm.of_error hs h

theorem Keeps.look_bind {f : State → α} {g : α → M β} (hg : ∀ a, Keeps P (g a)) : Keeps P (look f >>= g) :=
  (keeps_look f).bind hg

theorem Keeps.ite {c : Prop} [Decidable c] {m m' : M α} (h : Keeps P m) (h' : Keeps P m') :
    Keeps P (if c then m else m') := by
  split
  · exact h
  · exact h'

/-- The I/N bit of an error is no part of the state. -/
theorem Keeps.inException {m : M α} (h : Keeps P m) : Keeps P (inException m) := by
  intro s hs
  unfold Machine.inException
  cases hm : m s with
  | ok a t => exact h.of_ok hs hm
  | error x t => cases x <;> exact h.of_error hs hm

end Keeps

/-- The outcome is a state that has the property, or none. -/
def NextMeets (P : State → Prop) (o : Host.Outcome State Fault Refusal) : Prop := ∀ t, o = .next t → P t

theorem nextMeets_next {P : State → Prop} {s : State} (h : P s) : NextMeets P (.next s) := by
  rintro t ⟨rfl⟩
  exact h

theorem nextMeets_fault {P : State → Prop} (f : Fault) : NextMeets P (.fault f) := nofun

theorem nextMeets_refused {P : State → Prop} (r : Refusal) : NextMeets P (.refused r) := nofun

/-! ## The unimplemented bits of SR (10_state.md R39, decision D5) -/

theorem unimplemented_eq_zero_iff (w : Word) :
    w &&& ~~~srMask = 0 ↔ ∀ i, i < 16 → srMask.getLsbD i = false → w.getLsbD i = false := by
  constructor
  · intro h i hi hm
    have bit := congrArg (·.getLsbD i) h
    simpa only [BitVec.getLsbD_and, BitVec.getLsbD_not, BitVec.ofNat_eq_ofNat, BitVec.getLsbD_zero, hi, hm,
      decide_true, Bool.not_false, Bool.and_true] using bit
  · intro h
    apply BitVec.eq_of_getLsbD_eq
    intro i hi
    cases hm : srMask.getLsbD i with
    | true => simp [hm]
    | false => simp [h i hi hm]

theorem unimplemented_or {v w : Word} (hv : v &&& ~~~srMask = 0) (hw : w &&& ~~~srMask = 0) :
    (v ||| w) &&& ~~~srMask = 0 := by
  rw [unimplemented_eq_zero_iff] at *
  intro i hi hm
  simp [hv i hi hm, hw i hi hm]

theorem unimplemented_and {v : Word} (w : Word) (hv : v &&& ~~~srMask = 0) : (v &&& w) &&& ~~~srMask = 0 := by
  rw [unimplemented_eq_zero_iff] at *
  intro i hi hm
  simp [hv i hi hm]

/-- The condition codes are implemented bits. -/
theorem unimplemented_withCcr {w : Word} (f : Ccr) (hw : w &&& ~~~srMask = 0) : withCcr w f &&& ~~~srMask = 0 := by
  rw [unimplemented_eq_zero_iff] at *
  intro i hi hm
  have h5 : 5 ≤ i := by
    by_contra hlt
    have : i = 0 ∨ i = 1 ∨ i = 2 ∨ i = 3 ∨ i = 4 := by omega
    rcases this with rfl | rfl | rfl | rfl | rfl <;> simp [srMask] at hm
  rw [withCcr_high w f i h5]
  exact hw i hi hm

/-- `WriteSR` discards the unimplemented bits (47_system_control.md R321). -/
theorem unimplemented_masked (w : Word) : (w &&& srMask) &&& ~~~srMask = 0 := by
  rw [BitVec.and_comm w]
  exact unimplemented_and w (by decide)

/-- S, T and the mask are implemented bits (60_exceptions.md R370). -/
theorem unimplemented_entrySr {sr : Word} (level : Option (BitVec 3)) (h : sr &&& ~~~srMask = 0) :
    entrySr sr level &&& ~~~srMask = 0 := by
  have raised : ((sr ||| 0x2000) &&& 0x7FFF) &&& ~~~srMask = 0 := unimplemented_and _ (unimplemented_or h (by decide))
  cases level with
  | none => exact raised
  | some l =>
    have field : ∀ l : BitVec 3, (l.setWidth 16 <<< 8 : Word) &&& ~~~srMask = 0 := by decide
    exact unimplemented_or (unimplemented_and _ raised) (field l)

/-! ## The invariant under the named updates of the state -/

/-- The invariant speaks of memory and SR only. -/
theorem State.wf.of_fields {s t : State} (h : s.wf) (hm : t.mem = s.mem) (hr : t.sr = s.sr) : t.wf :=
  ⟨hm ▸ h.mem, hr ▸ h.sr⟩

theorem State.wf.setCcr {s : State} (h : s.wf) (f : Ccr) : (s.setCcr f).wf := ⟨h.mem, unimplemented_withCcr f h.sr⟩

theorem State.wf.writeSr {s : State} (h : s.wf) (w : Word) : (s.writeSr w).wf := ⟨h.mem, unimplemented_masked w⟩

@[simp] theorem State.setRreg_mem (s : State) (i : Fin 16) (v : Long) : (s.setRreg i v).mem = s.mem := by
  unfold State.setRreg
  split <;> simp

@[simp] theorem State.setRreg_sr (s : State) (i : Fin 16) (v : Long) : (s.setRreg i v).sr = s.sr := by
  unfold State.setRreg
  split <;> simp

/-- What a cut-off instruction leaves: its memory cells and condition codes are old or new (60_exceptions.md R373). -/
theorem State.wf.blend {new : State} (old : State) (h : new.wf) : (blend old new).wf :=
  ⟨blendMem_wf _ _ h.mem, unimplemented_withCcr _ h.sr⟩

theorem State.wf.haltFrom {new : State} (old : State) (h : new.wf) : (haltFrom old new).wf :=
  ⟨blendMem_wf _ _ h.mem, h.sr⟩

theorem State.wf.abandonedFrom {new : State} (old : State) (h : new.wf) : (abandonedFrom old new).wf :=
  ⟨blendMem_wf _ _ h.mem, h.sr⟩

theorem State.wf.resetRegisters {s : State} (h : s.wf) : s.resetRegisters.wf :=
  ⟨h.mem, unimplemented_withCcr _ (by decide)⟩

/-- A change that leaves memory and SR alone keeps the invariant. -/
theorem update_keepsWf {f : State → State} (hm : ∀ s, (f s).mem = s.mem := by simp)
    (hr : ∀ s, (f s).sr = s.sr := by simp) : Keeps State.wf (update f) :=
  keeps_update fun s hs => hs.of_fields (hm s) (hr s)

theorem update_bind_keepsWf {β : Type} {f : State → State} {g : Unit → M β} (hg : ∀ a, Keeps State.wf (g a))
    (hm : ∀ s, (f s).mem = s.mem := by simp) (hr : ∀ s, (f s).sr = s.sr := by simp) :
    Keeps State.wf (update f >>= g) := (update_keepsWf hm hr).bind hg

theorem setFlags_keepsWf (f : Ccr → Ccr) : Keeps State.wf (setFlags f) := keeps_update fun _ hs => hs.setCcr _

theorem draw_keepsWf : Keeps State.wf draw := fun _ hs => hs.of_fields rfl rfl

/-! ## Bus cycles, fetches and the stack -/

theorem countCycle_keepsWf : Keeps State.wf countCycle := by
  intro s hs
  unfold countCycle
  split
  · exact hs
  · exact hs
  · exact hs.of_fields rfl rfl

theorem busCycle_keepsWf (cyc : Cycle) : Keeps State.wf (busCycle cyc) := by
  refine countCycle_keepsWf.bind fun _ => .look_bind fun r => ?_
  cases r with
  | busError => exact keeps_abort _
  | silent => exact keeps_hang
  | data | readOnly | device => exact keeps_pure _

theorem fromDevice_keepsWf (n : Nat) : Keeps State.wf (fromDevice n) := draw_keepsWf.bind fun _ => keeps_pure _

theorem supply_keepsWf {n : Nat} (r : Reply) (m : State → BitVec n) : Keeps State.wf (supply r m) :=
  .ite (fromDevice_keepsWf n) (keeps_look m)

theorem aligned_keepsWf (cyc : Cycle) : Keeps State.wf (aligned cyc) := .ite (keeps_abort _) (keeps_pure _)

theorem readByte_keepsWf (fc : BitVec 3) (a : Long) : Keeps State.wf (readByte fc a) :=
  (busCycle_keepsWf _).bind fun _ => supply_keepsWf _ _

theorem readWord_keepsWf (fc : BitVec 3) (a : Long) : Keeps State.wf (readWord fc a) :=
  (aligned_keepsWf _).bind fun _ => (busCycle_keepsWf _).bind fun _ => supply_keepsWf _ _

theorem readLong_keepsWf (fc : BitVec 3) (a : Long) : Keeps State.wf (readLong fc a) :=
  (readWord_keepsWf _ _).bind fun _ => (readWord_keepsWf _ _).bind fun _ => keeps_pure _

theorem noteStale_keepsWf (fc : BitVec 3) (a : Long) : Keeps State.wf (noteStale fc a) := by
  intro s hs
  rw [noteStale_run]
  exact hs.of_fields (State.noted_mem s fc a) (State.noted_sr s fc a)

theorem writeByte_keepsWf (fc : BitVec 3) (a : Long) (v : Byte) : Keeps State.wf (writeByte fc a v) :=
  (busCycle_keepsWf _).bind fun _ =>
    .ite ((noteStale_keepsWf fc a).bind fun _ => keeps_update fun _ hs => ⟨Memory.set_wf _ _ hs.mem, hs.sr⟩)
      (keeps_pure _)

theorem writeWord_keepsWf (fc : BitVec 3) (a : Long) (v : Word) : Keeps State.wf (writeWord fc a v) :=
  (aligned_keepsWf _).bind fun _ => (busCycle_keepsWf _).bind fun _ =>
    .ite ((noteStale_keepsWf fc a).bind fun _ => keeps_update fun _ hs => ⟨Memory.setWord_wf _ _ hs.mem, hs.sr⟩)
      (keeps_pure _)

theorem writeLong_keepsWf (fc : BitVec 3) (a : Long) (v : Long) : Keeps State.wf (writeLong fc a v) :=
  (writeWord_keepsWf _ _ _).bind fun _ => writeWord_keepsWf _ _ _

theorem readSized_keepsWf (fc : BitVec 3) (a : Long) (sz : Size) : Keeps State.wf (readSized fc a sz) := by
  cases sz with
  | b => exact readByte_keepsWf fc a
  | w => exact readWord_keepsWf fc a
  | l => exact readLong_keepsWf fc a

theorem writeSized_keepsWf (fc : BitVec 3) (a : Long) (sz : Size) (v : BitVec sz.bits) :
    Keeps State.wf (writeSized fc a sz v) := by
  cases sz with
  | b => exact writeByte_keepsWf fc a v
  | w => exact writeWord_keepsWf fc a v
  | l => exact writeLong_keepsWf fc a v

theorem memRead_keepsWf (sz : Size) (a : Long) : Keeps State.wf (memRead sz a) :=
  .look_bind fun _ => readSized_keepsWf _ a sz

theorem memWrite_keepsWf (sz : Size) (a : Long) (v : BitVec sz.bits) : Keeps State.wf (memWrite sz a v) :=
  .look_bind fun _ => writeSized_keepsWf _ a sz v

theorem fetchCell_keepsWf (k : Nat) : Keeps State.wf (fetchCell k) := by
  intro s hs
  unfold fetchCell
  split
  · exact hs
  · exact hs.of_fields rfl rfl

theorem fetch16_keepsWf : Keeps State.wf fetch16 :=
  .look_bind fun _ => .look_bind fun _ => (aligned_keepsWf _).bind fun _ => (busCycle_keepsWf _).bind fun _ =>
    .look_bind fun k => (Keeps.ite (fromDevice_keepsWf 16) (fetchCell_keepsWf k)).bind fun _ =>
      update_bind_keepsWf fun _ => keeps_pure _

theorem fetch32_keepsWf : Keeps State.wf fetch32 :=
  fetch16_keepsWf.bind fun _ => fetch16_keepsWf.bind fun _ => keeps_pure _

theorem push16_keepsWf (v : Word) : Keeps State.wf (push16 v) :=
  update_bind_keepsWf fun _ => .look_bind fun _ => memWrite_keepsWf .w _ v

theorem push32_keepsWf (v : Long) : Keeps State.wf (push32 v) :=
  update_bind_keepsWf fun _ => .look_bind fun _ => memWrite_keepsWf .l _ v

theorem pop16_keepsWf : Keeps State.wf pop16 :=
  .look_bind fun _ => (memRead_keepsWf .w _).bind fun _ => update_bind_keepsWf fun _ => keeps_pure _

theorem pop32_keepsWf : Keeps State.wf pop32 :=
  .look_bind fun _ => (memRead_keepsWf .l _).bind fun _ => update_bind_keepsWf fun _ => keeps_pure _

/-! ## Taking an exception (60_exceptions.md R370, R384) -/

theorem enterHandler_keepsWf (n : Byte) : Keeps State.wf (enterHandler n) :=
  (memRead_keepsWf .l _).bind fun _ => update_keepsWf

theorem enterException_keepsWf (n : Byte) (pc : Long) (level : Option (BitVec 3)) :
    Keeps State.wf (enterException n pc level) :=
  Keeps.inException <| .look_bind fun _ =>
    (keeps_update fun _ hs => ⟨hs.mem, unimplemented_entrySr level hs.sr⟩).bind fun _ =>
      (push32_keepsWf pc).bind fun _ => (push16_keepsWf _).bind fun _ => enterHandler_keepsWf n

theorem raiseTrap_keepsWf (n : Byte) : Keeps State.wf (raiseTrap n) :=
  .look_bind fun _ => enterException_keepsWf n _ none

theorem raiseUnexecuted_keepsWf (n : Byte) : Keeps State.wf (raiseUnexecuted n) :=
  update_bind_keepsWf fun _ => .look_bind fun _ => enterException_keepsWf n _ none

theorem privileged_keepsWf {m : M Unit} (h : Keeps State.wf m) : Keeps State.wf (privileged m) :=
  .look_bind fun _ => .ite h (raiseUnexecuted_keepsWf 8)

theorem enterAccessError_keepsWf (e : AccessError) (cyc : Cycle) (inExc : Bool) (p : Progress) :
    Keeps State.wf (enterAccessError e cyc inExc p) :=
  Keeps.inException <| .look_bind fun _ => .look_bind fun _ =>
    (keeps_update fun _ hs => ⟨hs.mem, unimplemented_entrySr none hs.sr⟩).bind fun _ =>
      draw_keepsWf.bind fun _ => draw_keepsWf.bind fun _ => draw_keepsWf.bind fun _ =>
        (push32_keepsWf _).bind fun _ => (push16_keepsWf _).bind fun _ => (push16_keepsWf _).bind fun _ =>
          (push32_keepsWf _).bind fun _ => (push16_keepsWf _).bind fun _ => enterHandler_keepsWf _

/-- The processing of a bus or address error, from whatever state was cut off. -/
theorem accessErrorTaken_meetsWf (base : State) {now : State} (h : now.wf) (e : AccessError) (cyc : Cycle)
    (inExc : Bool) (p : Progress) : NextMeets State.wf (accessErrorTaken base now e cyc inExc p) := by
  have entry := enterAccessError_keepsWf e cyc inExc p
  cases hm : enterAccessError e cyc inExc p (blend base now) with
  | ok _ s =>
    simp only [accessErrorTaken, hm]
    exact nextMeets_next (entry.of_ok (h.blend base) hm)
  | error x s =>
    simp only [accessErrorTaken, hm]
    have hs := entry.of_error (h.blend base) hm
    cases x with
    | access => exact nextMeets_next (hs.haltFrom _)
    | reset => exact nextMeets_next (hs.abandonedFrom _)
    | fault f => exact nextMeets_fault f
    | refuse r => exact nextMeets_refused r

/-- The end of an instruction, answered or cut off. -/
theorem finish_meetsWf (base : State) {r : EStateM.Result Abort State Unit} (h : (finalState r).wf) :
    NextMeets State.wf (finish base r) := by
  cases r with
  | ok _ s => exact nextMeets_next h
  | error x s =>
    cases x with
    | access => exact accessErrorTaken_meetsWf base h _ _ _ _
    | reset => exact nextMeets_next (h.abandonedFrom base)
    | fault f => exact nextMeets_fault f
    | refuse r => exact nextMeets_refused r

/-- An instruction whose computation keeps the invariant keeps it, whatever cuts it off. -/
theorem execute_meetsWf {m : M Unit} {s : State} (hm : Keeps State.wf m) (hs : s.wf) :
    NextMeets State.wf (execute m s) := finish_meetsWf s (hm s hs)

/-! ## Operands (30_encoding.md R125 to R128) -/

theorem fetchIndex_keepsWf : Keeps State.wf fetchIndex := fetch16_keepsWf.bind fun _ => keeps_look _

theorem eaAddr_keepsWf (sz : Size) (ea : Ea) : Keeps State.wf (eaAddr sz ea) := by
  cases ea with
  | ind n => exact keeps_look _
  | post n => exact .look_bind fun _ => update_bind_keepsWf fun _ => keeps_pure _
  | pre n => exact update_bind_keepsWf fun _ => keeps_look _
  | disp n => exact fetch16_keepsWf.bind fun _ => keeps_look _
  | index n => exact fetchIndex_keepsWf.bind fun _ => keeps_look _
  | absW => exact fetch16_keepsWf.bind fun _ => keeps_pure _
  | absL => exact fetch32_keepsWf
  | pcDisp => exact .look_bind fun _ => fetch16_keepsWf.bind fun _ => keeps_pure _
  | pcIndex => exact .look_bind fun _ => fetchIndex_keepsWf.bind fun _ => keeps_pure _
  | dn | an | imm => exact keeps_abort _

theorem fetchImm_keepsWf (sz : Size) : Keeps State.wf (fetchImm sz) := by
  cases sz with
  | b => exact fetch16_keepsWf.bind fun _ => keeps_pure _
  | w => exact fetch16_keepsWf
  | l => exact fetch32_keepsWf

theorem readMemEa_keepsWf (sz : Size) (ea : Ea) : Keeps State.wf (readMemEa sz ea) :=
  (eaAddr_keepsWf sz ea).bind fun a => .look_bind fun _ => readSized_keepsWf _ a sz

theorem readEa_keepsWf (sz : Size) (ea : Ea) : Keeps State.wf (readEa sz ea) := by
  cases ea with
  | dn n => exact keeps_look _
  | an n => exact .ite (keeps_abort _) (keeps_look _)
  | imm => exact fetchImm_keepsWf sz
  | ind | post | pre | disp | index | absW | absL | pcDisp | pcIndex => exact readMemEa_keepsWf sz _

theorem writeEa_keepsWf (sz : Size) (ea : Ea) (v : BitVec sz.bits) : Keeps State.wf (writeEa sz ea v) := by
  cases ea with
  | dn n => exact update_keepsWf
  | an n => exact update_keepsWf
  | pcDisp | pcIndex | imm => exact keeps_abort _
  | ind | post | pre | disp | index | absW | absL =>
    exact (eaAddr_keepsWf sz _).bind fun a => memWrite_keepsWf sz a v

theorem modifyEa_keepsWf {sz : Size} (ea : Ea) {f : BitVec sz.bits → M (BitVec sz.bits)}
    (hf : ∀ v, Keeps State.wf (f v)) : Keeps State.wf (modifyEa sz ea f) := by
  cases ea with
  | dn n => exact .look_bind fun v => (hf v).bind fun _ => update_keepsWf
  | an | pcDisp | pcIndex | imm => exact keeps_abort _
  | ind | post | pre | disp | index | absW | absL =>
    exact (eaAddr_keepsWf sz _).bind fun a => (memRead_keepsWf sz a).bind fun v => (hf v).bind fun r =>
      memWrite_keepsWf sz a r

/-! ## Results with their flags -/

theorem addResult_keepsWf {n : Nat} (d v : BitVec n) : Keeps State.wf (addResult d v) :=
  (setFlags_keepsWf _).bind fun _ => keeps_pure _

theorem subResult_keepsWf {n : Nat} (d v : BitVec n) : Keeps State.wf (subResult d v) :=
  (setFlags_keepsWf _).bind fun _ => keeps_pure _

theorem addxResult_keepsWf {n : Nat} (d v : BitVec n) : Keeps State.wf (addxResult d v) :=
  .look_bind fun _ => (setFlags_keepsWf _).bind fun _ => keeps_pure _

theorem subxResult_keepsWf {n : Nat} (d v : BitVec n) : Keeps State.wf (subxResult d v) :=
  .look_bind fun _ => (setFlags_keepsWf _).bind fun _ => keeps_pure _

theorem compareResult_keepsWf {n : Nat} (d v : BitVec n) : Keeps State.wf (compareResult d v) := setFlags_keepsWf _

theorem logicResult_keepsWf {n : Nat} (r : BitVec n) : Keeps State.wf (logicResult r) :=
  (setFlags_keepsWf _).bind fun _ => keeps_pure _

theorem shiftResult_keepsWf {n : Nat} (op : ShiftOp) (k : Nat) (v : BitVec n) : Keeps State.wf (shiftResult op k v) :=
  .look_bind fun _ => (setFlags_keepsWf _).bind fun _ => keeps_pure _

theorem bitResult_keepsWf {n : Nat} (op : BitOp) (v : BitVec n) (k : Nat) : Keeps State.wf (bitResult op v k) :=
  (setFlags_keepsWf _).bind fun _ => keeps_pure _

theorem decimalResult_keepsWf (valid : Bool) (o : Byte × Bool) : Keeps State.wf (decimalResult valid o) :=
  draw_keepsWf.bind fun _ =>
    .ite ((setFlags_keepsWf _).bind fun _ => keeps_pure _) ((setFlags_keepsWf _).bind fun _ => keeps_pure _)

theorem decimalAdd_keepsWf (d v : Byte) : Keeps State.wf (decimalAdd d v) :=
  .look_bind fun _ => decimalResult_keepsWf _ _

theorem decimalSub_keepsWf (d v : Byte) : Keeps State.wf (decimalSub d v) :=
  .look_bind fun _ => decimalResult_keepsWf _ _

/-! ## Shapes shared by several instructions -/

section Shapes

variable {sz : Size} {f : BitVec sz.bits → BitVec sz.bits → M (BitVec sz.bits)}

theorem eaToDn_keepsWf (dn : RegNo) (ea : Ea) (hf : ∀ d v, Keeps State.wf (f d v)) :
    Keeps State.wf (eaToDn sz dn ea f) :=
  (readEa_keepsWf sz ea).bind fun v => .look_bind fun d => (hf d v).bind fun _ => update_keepsWf

theorem dnToEa_keepsWf (dn : RegNo) (ea : Ea) (hf : ∀ d v, Keeps State.wf (f d v)) :
    Keeps State.wf (dnToEa sz dn ea f) :=
  modifyEa_keepsWf ea fun d => .look_bind fun v => hf d v

theorem immToEa_keepsWf (ea : Ea) (hf : ∀ d v, Keeps State.wf (f d v)) : Keeps State.wf (immToEa sz ea f) :=
  (fetchImm_keepsWf sz).bind fun v => modifyEa_keepsWf ea fun d => hf d v

theorem pairOp_keepsWf (m : PairMode) (x y : RegNo) (hf : ∀ d v, Keeps State.wf (f d v)) :
    Keeps State.wf (pairOp sz m x y f) := by
  cases m with
  | regs => exact .look_bind fun v => .look_bind fun d => (hf d v).bind fun _ => update_keepsWf
  | mem =>
    exact (eaAddr_keepsWf sz _).bind fun ay => (memRead_keepsWf sz ay).bind fun v =>
      (eaAddr_keepsWf sz _).bind fun ax => (memRead_keepsWf sz ax).bind fun d => (hf d v).bind fun r =>
        memWrite_keepsWf sz ax r

end Shapes

theorem shiftReg_keepsWf (op : ShiftOp) (sz : Size) (cnt : ShiftCount) (dn : RegNo) :
    Keeps State.wf (shiftReg op sz cnt dn) :=
  .look_bind fun k => .look_bind fun v => (shiftResult_keepsWf op k v).bind fun _ => update_keepsWf

theorem shiftMem_keepsWf (op : ShiftOp) (ea : Ea) : Keeps State.wf (shiftMem op ea) :=
  modifyEa_keepsWf ea fun v => shiftResult_keepsWf op 1 v

theorem bitModify_keepsWf (op : BitOp) (number : Nat) (ea : Ea) : Keeps State.wf (bitModify op number ea) := by
  cases ea with
  | dn n => exact modifyEa_keepsWf (sz := .l) (.dn n) fun v => bitResult_keepsWf op v (number % 32)
  | an | ind | post | pre | disp | index | absW | absL | pcDisp | pcIndex | imm =>
    simp only [bitModify]
    exact modifyEa_keepsWf _ fun v => bitResult_keepsWf op v (number % 8)

theorem bitTest_keepsWf (number : Nat) (ea : Ea) : Keeps State.wf (bitTest number ea) := by
  cases ea with
  | dn n =>
    exact (readEa_keepsWf .l _).bind fun v => (bitResult_keepsWf .tst v (number % 32)).bind fun _ => keeps_pure _
  | _ => exact (readEa_keepsWf .b _).bind fun v => (bitResult_keepsWf .tst v (number % 8)).bind fun _ => keeps_pure _

theorem fetchBitNumber_keepsWf : Keeps State.wf fetchBitNumber := fetch16_keepsWf.bind fun _ => keeps_pure _

theorem branchTarget_keepsWf (disp : Byte) : Keeps State.wf (branchTarget disp) :=
  .look_bind fun _ => .ite (fetch16_keepsWf.bind fun _ => keeps_pure _) (keeps_pure _)

theorem divide_keepsWf (dn : RegNo) (ea : Ea) (quotient : Long → Word → Option (Word × Word)) :
    Keeps State.wf (divide dn ea quotient) := by
  refine (readEa_keepsWf .w ea).bind fun v => .ite ?zero (.look_bind fun d => ?nonzero)
  case zero => exact draw_keepsWf.bind fun _ => (setFlags_keepsWf _).bind fun _ => raiseTrap_keepsWf 5
  case nonzero =>
    cases quotient d v with
    | none => exact draw_keepsWf.bind fun _ => setFlags_keepsWf _
    | some qr => exact (setFlags_keepsWf _).bind fun _ => update_keepsWf

/-! The transfers of MOVEM and MOVEP, by induction on the registers and the bytes still to come. -/

theorem movemStore_keepsWf (sz : Size) (mask : Word) (is : List (Fin 16)) (a : Long) :
    Keeps State.wf (movemStore sz mask is a) := by
  induction is generalizing a with
  | nil => exact keeps_pure _
  | cons i is ih => exact .ite (.look_bind fun v => (memWrite_keepsWf sz a v).bind fun _ => ih _) (ih a)

theorem movemStoreDown_keepsWf (sz : Size) (mask : Word) (is : List (Fin 16)) (a : Long) :
    Keeps State.wf (movemStoreDown sz mask is a) := by
  induction is generalizing a with
  | nil => exact keeps_pure _
  | cons i is ih => exact .ite (.look_bind fun v => (memWrite_keepsWf sz _ v).bind fun _ => ih _) (ih a)

theorem movemLoad_keepsWf (fc : BitVec 3) (sz : Size) (mask : Word) (is : List (Fin 16)) (a : Long) :
    Keeps State.wf (movemLoad fc sz mask is a) := by
  induction is generalizing a with
  | nil => exact keeps_pure _
  | cons i is ih =>
    exact .ite ((readSized_keepsWf fc a sz).bind fun _ => update_bind_keepsWf fun _ => ih _) (ih a)

theorem movepLoad_keepsWf (dn : RegNo) (ks : List Nat) (a : Long) : Keeps State.wf (movepLoad dn ks a) := by
  induction ks generalizing a with
  | nil => exact keeps_pure _
  | cons k ks ih => exact (memRead_keepsWf .b a).bind fun _ => update_bind_keepsWf fun _ => ih _

theorem movepStore_keepsWf (dn : RegNo) (ks : List Nat) (a : Long) : Keeps State.wf (movepStore dn ks a) := by
  induction ks generalizing a with
  | nil => exact keeps_pure _
  | cons k ks ih => exact .look_bind fun b => (memWrite_keepsWf .b a b).bind fun _ => ih _

/-! The halves of TAS (48_multiprocessor.md R350, R352). -/

theorem neverRetried_keepsWf (cyc : Cycle) : Keeps State.wf (neverRetried cyc) :=
  .look_bind fun _ => .ite (countCycle_keepsWf.bind fun _ => keeps_abort _) (keeps_pure _)

theorem tasRead_keepsWf (ea : Ea) : Keeps State.wf (tasRead ea) :=
  (eaAddr_keepsWf .b ea).bind fun a => .look_bind fun fc => (neverRetried_keepsWf _).bind fun _ =>
    (readByte_keepsWf fc a).bind fun _ => (setFlags_keepsWf _).bind fun _ => keeps_pure _

theorem tasWrite_keepsWf (a : Long) (v : Byte) : Keeps State.wf (tasWrite a v) :=
  .look_bind fun fc => (neverRetried_keepsWf _).bind fun _ => writeByte_keepsWf fc a v

theorem tasMemory_meetsWf (ea : Ea) {s : State} (hs : s.wf) : NextMeets State.wf (tasMemory ea s) := by
  unfold tasMemory
  cases hr : tasRead ea s with
  | ok av s1 => exact finish_meetsWf _ (tasWrite_keepsWf _ _ s1 ((tasRead_keepsWf ea).of_ok hs hr))
  | error x s1 => exact finish_meetsWf s ((tasRead_keepsWf ea).of_error hs hr)

/-! ## Instructions with a meaning of their own -/

theorem execTas_meetsWf (ea : Ea) {s : State} (hs : s.wf) : NextMeets State.wf (execTas ea s) := by
  cases ea with
  | dn n => exact execute_meetsWf (modifyEa_keepsWf _ fun _ => (setFlags_keepsWf _).bind fun _ => keeps_pure _) hs
  | an | pcDisp | pcIndex | imm => exact nextMeets_refused _
  | ind | post | pre | disp | index | absW | absL => exact tasMemory_meetsWf _ hs

theorem execAddq_meetsWf (sz : Size) (q : RegNo) (ea : Ea) {s : State} (hs : s.wf) :
    NextMeets State.wf (execAddq sz q ea s) := by
  refine execute_meetsWf ?_ hs
  cases ea with
  | an n => exact .ite (keeps_abort _) update_keepsWf
  | _ => exact modifyEa_keepsWf _ fun _ => addResult_keepsWf _ _

theorem execSubq_meetsWf (sz : Size) (q : RegNo) (ea : Ea) {s : State} (hs : s.wf) :
    NextMeets State.wf (execSubq sz q ea s) := by
  refine execute_meetsWf ?_ hs
  cases ea with
  | an n => exact .ite (keeps_abort _) update_keepsWf
  | _ => exact modifyEa_keepsWf _ fun _ => subResult_keepsWf _ _

theorem execExt_meetsWf (sz : Size) (dn : RegNo) {s : State} (hs : s.wf) : NextMeets State.wf (execExt sz dn s) := by
  refine execute_meetsWf ?_ hs
  cases sz with
  | b => exact keeps_abort _
  | w | l => exact .look_bind fun _ => (setFlags_keepsWf _).bind fun _ => update_keepsWf

theorem execChk_meetsWf (dn : RegNo) (ea : Ea) {s : State} (hs : s.wf) : NextMeets State.wf (execChk dn ea s) :=
  have trap (f : Ccr → Ccr) : Keeps State.wf (setFlags f >>= fun _ => raiseTrap 6) :=
    (setFlags_keepsWf f).bind fun _ => raiseTrap_keepsWf 6
  execute_meetsWf ((readEa_keepsWf .w ea).bind fun _ => .look_bind fun _ => draw_keepsWf.bind fun _ =>
    .ite (trap _) (.ite (trap _) (setFlags_keepsWf _))) hs

theorem execMovemToRegs_meetsWf (sz : Size) (ea : Ea) {s : State} (hs : s.wf) :
    NextMeets State.wf (execMovemToRegs sz ea s) := by
  refine execute_meetsWf (fetch16_keepsWf.bind fun mask => ?_) hs
  cases ea with
  | post n =>
    exact .look_bind fun a => .look_bind fun fc => (movemLoad_keepsWf fc sz mask _ a).bind fun _ => update_keepsWf
  | _ =>
    exact (eaAddr_keepsWf sz _).bind fun a => .look_bind fun fc => (movemLoad_keepsWf fc sz mask _ a).bind fun _ =>
      keeps_pure _

theorem execDbcc_meetsWf (c : Cond) (dn : RegNo) {s : State} (hs : s.wf) : NextMeets State.wf (execDbcc c dn s) :=
  execute_meetsWf ((branchTarget_keepsWf 0).bind fun _ => .look_bind fun _ => .ite (keeps_pure _)
    (.look_bind fun _ => update_bind_keepsWf fun _ => .ite update_keepsWf (keeps_pure _))) hs

theorem execBcc_meetsWf (c : Cond) (disp : Byte) {s : State} (hs : s.wf) : NextMeets State.wf (execBcc c disp s) :=
  execute_meetsWf ((branchTarget_keepsWf disp).bind fun _ => keeps_update fun s hs => by
    split
    · exact hs.of_fields rfl rfl
    · exact hs) hs

theorem execLink_meetsWf (an : RegNo) {s : State} (hs : s.wf) : NextMeets State.wf (execLink an s) :=
  execute_meetsWf (fetch16_keepsWf.bind fun _ => update_bind_keepsWf fun _ => .look_bind fun _ => .look_bind fun _ =>
    (memWrite_keepsWf .l _ _).bind fun _ => update_bind_keepsWf fun _ => update_keepsWf) hs

theorem execUnlk_meetsWf (an : RegNo) {s : State} (hs : s.wf) : NextMeets State.wf (execUnlk an s) :=
  execute_meetsWf (update_bind_keepsWf fun _ => .look_bind fun _ => (memRead_keepsWf .l _).bind fun _ =>
    update_bind_keepsWf fun _ => update_keepsWf) hs

theorem execRtr_meetsWf {s : State} (hs : s.wf) : NextMeets State.wf (execRtr s) :=
  execute_meetsWf (pop16_keepsWf.bind fun _ => (keeps_update fun _ hs => hs.setCcr _).bind fun _ =>
    pop32_keepsWf.bind fun _ => update_keepsWf) hs

theorem execRte_meetsWf {s : State} (hs : s.wf) : NextMeets State.wf (execRte s) :=
  execute_meetsWf (privileged_keepsWf <| pop16_keepsWf.bind fun w => pop32_keepsWf.bind fun _ =>
    keeps_update fun _ hs => (hs.writeSr w).of_fields rfl rfl) hs

theorem execStop_meetsWf {s : State} (hs : s.wf) : NextMeets State.wf (execStop s) :=
  execute_meetsWf (privileged_keepsWf <| fetch16_keepsWf.bind fun w =>
    keeps_update fun _ hs => (hs.writeSr w).of_fields rfl rfl) hs

/-- Every instruction, completed or cut off, keeps the invariant. The cases are grouped by the shape of the meaning. -/
theorem exec_meetsWf (i : Instr) {s : State} (hs : s.wf) : NextMeets State.wf (exec i s) := by
  cases i with
  | ori sz ea | andi sz ea | eori sz ea =>
    exact execute_meetsWf (immToEa_keepsWf ea fun _ _ => logicResult_keepsWf _) hs
  | addi sz ea => exact execute_meetsWf (immToEa_keepsWf ea addResult_keepsWf) hs
  | subi sz ea => exact execute_meetsWf (immToEa_keepsWf ea subResult_keepsWf) hs
  | orToDn sz dn ea | andToDn sz dn ea =>
    exact execute_meetsWf (eaToDn_keepsWf dn ea fun _ _ => logicResult_keepsWf _) hs
  | addToDn sz dn ea => exact execute_meetsWf (eaToDn_keepsWf dn ea addResult_keepsWf) hs
  | subToDn sz dn ea => exact execute_meetsWf (eaToDn_keepsWf dn ea subResult_keepsWf) hs
  | orToEa sz dn ea | andToEa sz dn ea | eor sz dn ea =>
    exact execute_meetsWf (dnToEa_keepsWf dn ea fun _ _ => logicResult_keepsWf _) hs
  | addToEa sz dn ea => exact execute_meetsWf (dnToEa_keepsWf dn ea addResult_keepsWf) hs
  | subToEa sz dn ea => exact execute_meetsWf (dnToEa_keepsWf dn ea subResult_keepsWf) hs
  | addx sz m x y => exact execute_meetsWf (pairOp_keepsWf m x y addxResult_keepsWf) hs
  | subx sz m x y => exact execute_meetsWf (pairOp_keepsWf m x y subxResult_keepsWf) hs
  | abcd m x y => exact execute_meetsWf (pairOp_keepsWf m x y decimalAdd_keepsWf) hs
  | sbcd m x y => exact execute_meetsWf (pairOp_keepsWf m x y decimalSub_keepsWf) hs
  | neg sz ea => exact execute_meetsWf (modifyEa_keepsWf ea fun _ => subResult_keepsWf _ _) hs
  | negx sz ea => exact execute_meetsWf (modifyEa_keepsWf ea fun _ => subxResult_keepsWf _ _) hs
  | not sz ea => exact execute_meetsWf (modifyEa_keepsWf ea fun _ => logicResult_keepsWf _) hs
  | nbcd ea => exact execute_meetsWf (modifyEa_keepsWf ea fun _ => decimalSub_keepsWf _ _) hs
  | aslMem ea | asrMem ea | lslMem ea | lsrMem ea | rolMem ea | rorMem ea | roxlMem ea | roxrMem ea =>
    exact execute_meetsWf (shiftMem_keepsWf _ ea) hs
  | aslReg sz cnt dn | asrReg sz cnt dn | lslReg sz cnt dn | lsrReg sz cnt dn
  | rolReg sz cnt dn | rorReg sz cnt dn | roxlReg sz cnt dn | roxrReg sz cnt dn =>
    exact execute_meetsWf (shiftReg_keepsWf _ sz cnt dn) hs
  | btstImm ea => exact execute_meetsWf (fetchBitNumber_keepsWf.bind fun k => bitTest_keepsWf k ea) hs
  | btstReg n ea => exact execute_meetsWf (.look_bind fun k => bitTest_keepsWf k ea) hs
  | bchgImm ea | bclrImm ea | bsetImm ea =>
    exact execute_meetsWf (fetchBitNumber_keepsWf.bind fun k => bitModify_keepsWf _ k ea) hs
  | bchgReg n ea | bclrReg n ea | bsetReg n ea =>
    exact execute_meetsWf (.look_bind fun k => bitModify_keepsWf _ k ea) hs
  | oriToCcr | andiToCcr | eoriToCcr =>
    exact execute_meetsWf (fetch16_keepsWf.bind fun _ => keeps_update fun _ hs => hs.setCcr _) hs
  | oriToSr | andiToSr | eoriToSr =>
    exact execute_meetsWf
      (privileged_keepsWf <| fetch16_keepsWf.bind fun _ => keeps_update fun _ hs => hs.writeSr _) hs
  | moveToCcr ea =>
    exact execute_meetsWf ((readEa_keepsWf .w ea).bind fun _ => keeps_update fun _ hs => hs.setCcr _) hs
  | moveToSr ea =>
    exact execute_meetsWf
      (privileged_keepsWf <| (readEa_keepsWf .w ea).bind fun _ => keeps_update fun _ hs => hs.writeSr _) hs
  | moveFromSr ea => exact execute_meetsWf (.look_bind fun w => writeEa_keepsWf .w ea w) hs
  | moveToUsp an | moveFromUsp an | reset => exact execute_meetsWf (privileged_keepsWf update_keepsWf) hs
  | cmpi sz ea =>
    exact execute_meetsWf ((fetchImm_keepsWf sz).bind fun _ => (readEa_keepsWf sz ea).bind fun _ =>
      compareResult_keepsWf _ _) hs
  | cmp sz dn ea | cmpa sz an ea =>
    exact execute_meetsWf ((readEa_keepsWf sz ea).bind fun _ => .look_bind fun _ => compareResult_keepsWf _ _) hs
  | cmpm sz x y =>
    exact execute_meetsWf ((readMemEa_keepsWf sz _).bind fun _ => (readMemEa_keepsWf sz _).bind fun _ =>
      compareResult_keepsWf _ _) hs
  | tst sz ea => exact execute_meetsWf ((readEa_keepsWf sz ea).bind fun _ => setFlags_keepsWf _) hs
  | clr sz ea => exact execute_meetsWf ((setFlags_keepsWf _).bind fun _ => writeEa_keepsWf sz ea 0) hs
  | scc c ea => exact execute_meetsWf (.look_bind fun _ => writeEa_keepsWf .b ea _) hs
  | movep toMem sz dn an =>
    exact execute_meetsWf ((eaAddr_keepsWf .b _).bind fun a =>
      .ite (movepStore_keepsWf dn _ a) (movepLoad_keepsWf dn _ a)) hs
  | move sz src dst =>
    exact execute_meetsWf ((readEa_keepsWf sz src).bind fun v => (setFlags_keepsWf _).bind fun _ =>
      writeEa_keepsWf sz dst v) hs
  | movea sz src an => exact execute_meetsWf ((readEa_keepsWf sz src).bind fun _ => update_keepsWf) hs
  | adda sz an ea | suba sz an ea => exact execute_meetsWf ((readEa_keepsWf sz ea).bind fun _ => update_keepsWf) hs
  | moveq data dn =>
    show NextMeets State.wf (execMoveq data dn s)
    exact execute_meetsWf ((setFlags_keepsWf _).bind fun _ => update_keepsWf) hs
  | movemToMem sz ea =>
    exact execute_meetsWf (fetch16_keepsWf.bind fun mask => (eaAddr_keepsWf sz ea).bind fun a =>
      movemStore_keepsWf sz mask _ a) hs
  | movemPredec sz an =>
    exact execute_meetsWf (fetch16_keepsWf.bind fun mask => .look_bind fun a =>
      (movemStoreDown_keepsWf sz mask _ a).bind fun _ => update_keepsWf) hs
  | movemToRegs sz ea => exact execMovemToRegs_meetsWf sz ea hs
  | lea an ea => exact execute_meetsWf ((eaAddr_keepsWf .l ea).bind fun _ => update_keepsWf) hs
  | pea ea => exact execute_meetsWf ((eaAddr_keepsWf .l ea).bind fun a => push32_keepsWf a) hs
  | exgDD x y =>
    show NextMeets State.wf (execExgDD x y s)
    exact execute_meetsWf update_keepsWf hs
  | exgAA x y =>
    show NextMeets State.wf (execExgAA x y s)
    exact execute_meetsWf update_keepsWf hs
  | exgDA x y =>
    show NextMeets State.wf (execExgDA x y s)
    exact execute_meetsWf update_keepsWf hs
  | link an => exact execLink_meetsWf an hs
  | unlk an => exact execUnlk_meetsWf an hs
  | mulu dn ea | muls dn ea =>
    exact execute_meetsWf ((readEa_keepsWf .w ea).bind fun _ => .look_bind fun _ =>
      (logicResult_keepsWf _).bind fun _ => update_keepsWf) hs
  | divu dn ea | divs dn ea => exact execute_meetsWf (divide_keepsWf dn ea _) hs
  | addq sz q ea => exact execAddq_meetsWf sz q ea hs
  | subq sz q ea => exact execSubq_meetsWf sz q ea hs
  | ext sz dn => exact execExt_meetsWf sz dn hs
  | swap dn =>
    show NextMeets State.wf (execSwap dn s)
    exact execute_meetsWf (.look_bind fun _ => (logicResult_keepsWf _).bind fun _ => update_keepsWf) hs
  | tas ea => exact execTas_meetsWf ea hs
  | chk dn ea => exact execChk_meetsWf dn ea hs
  | illegal | lineA low | lineF low => exact execute_meetsWf (raiseUnexecuted_keepsWf _) hs
  | trap n => exact execute_meetsWf (raiseTrap_keepsWf _) hs
  | trapv => exact execute_meetsWf (.look_bind fun _ => .ite (raiseTrap_keepsWf 7) (keeps_pure _)) hs
  | bra disp => exact execute_meetsWf ((branchTarget_keepsWf disp).bind fun _ => update_keepsWf) hs
  | bcc c disp => exact execBcc_meetsWf c disp hs
  | bsr disp =>
    exact execute_meetsWf ((branchTarget_keepsWf disp).bind fun _ => .look_bind fun next =>
      (push32_keepsWf next).bind fun _ => update_keepsWf) hs
  | dbcc c dn => exact execDbcc_meetsWf c dn hs
  | jmp ea => exact execute_meetsWf ((eaAddr_keepsWf .l ea).bind fun _ => update_keepsWf) hs
  | jsr ea =>
    exact execute_meetsWf ((eaAddr_keepsWf .l ea).bind fun _ => .look_bind fun next =>
      (push32_keepsWf next).bind fun _ => update_keepsWf) hs
  | rts => exact execute_meetsWf (pop32_keepsWf.bind fun _ => update_keepsWf) hs
  | rtr => exact execRtr_meetsWf hs
  | rte => exact execRte_meetsWf hs
  | stop => exact execStop_meetsWf hs
  | nop => exact execute_meetsWf (keeps_pure ()) hs

/-! ## Between instructions: reset, trace, interrupts and the next fetch -/

/-- The end of a piece of processing between instructions, answered or cut off. -/
theorem finishBoundary_meetsWf (base : State) (p : Progress) {r : EStateM.Result Abort State Unit}
    (h : (finalState r).wf) : NextMeets State.wf (finishBoundary base p r) := by
  cases r with
  | ok _ s => exact nextMeets_next h
  | error x s =>
    cases x with
    | access e cyc inExc =>
      by_cases hw : base.window = .none
      · rw [finishBoundary_single hw]
        exact accessErrorTaken_meetsWf base h e cyc inExc p
      · rw [finishBoundary_double hw]
        exact nextMeets_next (h.haltFrom base)
    | reset => exact nextMeets_next (h.abandonedFrom base)
    | fault f => exact nextMeets_fault f
    | refuse r => exact nextMeets_refused r

theorem hardReset_keepsWf : Keeps State.wf hardReset :=
  (keeps_update fun _ hs => hs.resetRegisters).bind fun _ => (readLong_keepsWf 6 0).bind fun _ =>
    update_bind_keepsWf fun _ => (readLong_keepsWf 6 4).bind fun _ => update_keepsWf

theorem resetStep_meetsWf {s : State} (hs : s.wf) : NextMeets State.wf (resetStep s) := by
  unfold resetStep
  cases hm : hardReset s with
  | ok _ t => exact nextMeets_next (hardReset_keepsWf.of_ok hs hm)
  | error x t =>
    have ht := hardReset_keepsWf.of_error hs hm
    cases x with
    | access => exact nextMeets_next (ht.of_fields rfl rfl)
    | reset => exact nextMeets_next ht
    | fault f => exact nextMeets_fault f
    | refuse r => exact nextMeets_refused r

theorem takeTrace_keepsWf : Keeps State.wf takeTrace :=
  update_bind_keepsWf fun _ => .look_bind fun _ => enterException_keepsWf 9 _ none

theorem vectorOf_keepsWf (level : BitVec 3) (ack : Acknowledge) : Keeps State.wf (vectorOf level ack) := by
  cases ack with
  | vector | autovector | spurious => exact keeps_pure _
  | silent => exact keeps_hang

theorem takeInterrupt_keepsWf (level : BitVec 3) (ack : Acknowledge) : Keeps State.wf (takeInterrupt level ack) := by
  refine (countCycle_keepsWf.bind fun _ => vectorOf_keepsWf level ack).bind fun n => .bind ?_ fun _ =>
    .look_bind fun _ => enterException_keepsWf n _ (some level)
  refine keeps_update fun s hs => ?_
  split
  · exact hs.of_fields rfl rfl
  · exact hs

theorem fetchOpword_keepsWf : Keeps State.wf fetchOpword :=
  .look_bind fun _ => fetch16_keepsWf.bind fun _ => update_bind_keepsWf fun _ => keeps_pure _

theorem execWord_meetsWf (w : Word) {s : State} (hs : s.wf) : NextMeets State.wf (execWord w s) := by
  unfold execWord
  split
  · exact exec_meetsWf _ hs
  · exact execute_meetsWf (raiseUnexecuted_keepsWf 4) hs

theorem runInstruction_meetsWf {s : State} (hs : s.wf) : NextMeets State.wf (runInstruction s) := by
  unfold runInstruction
  cases hm : fetchOpword s with
  | ok w t => exact execWord_meetsWf w (fetchOpword_keepsWf.of_ok hs hm)
  | error x t => exact finishBoundary_meetsWf s _ (fetchOpword_keepsWf.of_error hs hm)

theorem sampledStep_meetsWf (ack : Acknowledge) {s : State} (hs : s.wf) : NextMeets State.wf (sampledStep ack s) := by
  unfold sampledStep
  split
  · exact finishBoundary_meetsWf s .boundary (takeInterrupt_keepsWf _ ack s hs)
  · split
    · exact nextMeets_next hs
    · exact runInstruction_meetsWf hs

theorem boundaryStep_meetsWf {s : State} (hs : s.wf) : NextMeets State.wf (boundaryStep s) := by
  by_cases hh : s.run = .halted
  · cases hi : s.inputs with
    | nil =>
      rw [boundaryStep_halted_nil hh hi]
      exact nextMeets_fault _
    | cons smp rest =>
      rw [boundaryStep_halted_cons hh hi]
      exact nextMeets_next (hs.of_fields rfl rfl)
  · cases ht : s.tracePending with
    | true =>
      rw [boundaryStep_trace hh ht]
      exact finishBoundary_meetsWf s .boundary (takeTrace_keepsWf s hs)
    | false =>
      rw [boundaryStep_sampled hh ht]
      exact sampledStep_meetsWf _ (hs.of_fields rfl rfl)

/-- What a reset in the course of a step finds is a state of the boundary's step, and the reset sequence follows. -/
theorem resetAfter_meetsWf (smp : Sample) (rest : List Sample) {o : Host.Outcome State Fault Refusal}
    (ho : NextMeets State.wf o) : NextMeets State.wf (resetAfter smp rest o) := by
  intro t ht
  obtain ⟨u, hu, hr⟩ := resetAfter_next ht
  have found : State.wf { u with inputs := rest, ipl := smp.level } := (ho u hu).of_fields rfl rfl
  exact resetStep_meetsWf found t hr

theorem step_meetsWf {s : State} (hs : s.wf) : NextMeets State.wf (step s) := by
  cases hi : s.inputs with
  | nil =>
    rw [step_quiet (by simp [State.nextSample, hi, quietSample])]
    exact boundaryStep_meetsWf hs
  | cons smp rest =>
    cases hr : smp.reset with
    | none =>
      rw [step_quiet (by simpa [State.nextSample, hi] using hr)]
      exact boundaryStep_meetsWf hs
    | some k =>
      cases k with
      | zero =>
        rw [step_reset hi hr]
        exact resetStep_meetsWf (hs.of_fields rfl rfl)
      | succ n =>
        rw [step_reset_within hi hr]
        exact resetAfter_meetsWf smp rest (boundaryStep_meetsWf (hs.of_fields rfl rfl))

/-- Settles O54: whatever a step does, it ends in a computation that keeps the invariant. -/
theorem stepKeepsInvariant : Obligations.StepKeepsInvariant := fun _ t hs ht => step_meetsWf hs t ht

/-! ## The state after reset (10_state.md R50) -/

/-- A cell that no entry names is not listed. -/
theorem Memory.lookup_unlisted {m : Memory} {k : Nat} (h : ∀ c ∈ m, c.1 ≠ k) : m.lookup k = none := by
  induction m with
  | nil => rfl
  | cons c rest ih =>
    simp only [Memory.lookup, if_neg (h c List.mem_cons_self)]
    exact ih fun d hd => h d (List.mem_cons_of_mem _ hd)

theorem reset_mem_below {c : Host.Cell} (h : c ∈ State.reset.mem) : c.1 < 8 := by
  have all : ∀ c ∈ State.reset.mem, c.1 < 8 := by decide
  exact all c h

/-- The reset vector of the state after reset holds 0 (log 3). -/
theorem reset_vector_zero : State.reset.load 6 0 .l = 0 ∧ State.reset.load 6 4 .l = 0 := by
  constructor <;> rfl

/-- Settles O52: the registers by evaluation, SSP and PC from the vector, and no cell listed from 8 on. -/
theorem resetValues : Obligations.ResetValues := by
  obtain ⟨hssp, hpc⟩ := reset_vector_zero
  exact ⟨rfl, rfl, rfl, rfl, rfl, rfl, rfl, hssp.symm, hpc.symm, rfl, rfl,
    fun k hk => Memory.lookup_unlisted fun c hc => (lt_of_lt_of_le (reset_mem_below hc) hk).ne⟩

/-- Settles O53. -/
theorem resetMeetsInvariant : Obligations.ResetMeetsInvariant where
  mem := by decide
  sr := by decide

end Sys2Proof.Machine

/-! # Memory reads back what is stored, and the frame of a bus or address error

A load finds the last store of its cells; the pushes of the seven-word frame are stores below one another, so each word
of the frame is still there when the handler starts (20_memory.md R63, R66 to R70; 60_exceptions.md R376, R377, R384). -/

namespace Sys2Proof.Machine

/-! ## Loads after stores (20_memory.md R63, R67) -/

/-- A load reads nothing but its cells. -/
theorem load_eq_of_cells {s t : State} {fc : BitVec 3} {a : Long} {sz : Size} (hp : t.platform = s.platform)
    (h : ∀ k ∈ s.cells fc a sz, t.mem.get k = s.mem.get k) : t.load fc a sz = s.load fc a sz := by
  cases sz <;>
    simp_all [State.cells, State.load, State.byteAt, State.wordAt, Memory.getWord, State.cell_congr hp]

/-- A store elsewhere does not change what a load finds. -/
theorem load_store_other (s : State) {fc fc' : BitVec 3} {a b : Long} {sz sz' : Size} (v : BitVec sz.bits)
    (h : ∀ k ∈ s.cells fc' b sz', k ∉ s.cells fc a sz) :
    (s.store fc a sz v).load fc' b sz' = s.load fc' b sz' :=
  load_eq_of_cells (State.store_platform s fc a sz v) fun k hk => store_get_other s fc a sz v (h k hk)

theorem evenAddr_iff (a : Long) : evenAddr a = true ↔ a.toNat % 2 = 0 := by
  simp [evenAddr, BitVec.getLsbD, Nat.testBit_zero]

theorem cell_plain {s : State} (hm : s.platform.memMap = []) (fc : BitVec 3) (a : Long) : s.cell fc a = addr24 a := by
  simp [State.cell, State.region, hm]

/-- In plain memory the cells of an aligned operand are those of its consecutive addresses. -/
theorem mem_cells_plain {s : State} (hm : s.platform.memMap = []) {fc : BitVec 3} {a : Long} {sz : Size}
    (ha : sz ≠ .b → evenAddr a = true) {k : Nat} (h : k ∈ s.cells fc a sz) :
    ∃ i < sz.bytes, k = (a.toNat + i) % 2 ^ 24 := by
  cases sz with
  | b => exact ⟨0, by decide, by simpa [State.cells, cell_plain hm, addr24] using h⟩
  | w =>
    have he := (evenAddr_iff a).1 (ha nofun)
    simp only [State.cells, cell_plain hm, addr24, List.mem_cons, List.not_mem_nil, or_false] at h
    rcases h with rfl | rfl
    · exact ⟨0, by decide, by omega⟩
    · exact ⟨1, by decide, by omega⟩
  | l =>
    have he := (evenAddr_iff a).1 (ha nofun)
    simp only [State.cells, cell_plain hm, addr24, BitVec.toNat_add, List.mem_cons, List.not_mem_nil, or_false,
      show (2 : Long).toNat = 2 from rfl] at h
    rcases h with rfl | rfl | rfl | rfl
    · exact ⟨0, by decide, by omega⟩
    · exact ⟨1, by decide, by omega⟩
    · exact ⟨2, by decide, by omega⟩
    · exact ⟨3, by decide, by omega⟩

/-- Operands of plain memory that lie apart share no cell: the second begins `d` bytes after the first, beyond its end,
and ends before the 24-bit address space has come round. -/
theorem cells_disjoint_plain {s : State} (hm : s.platform.memMap = []) {fc fc' : BitVec 3} {a b : Long} {sz sz' : Size}
    (ha : sz ≠ .b → evenAddr a = true) (hb : sz' ≠ .b → evenAddr b = true) {d : Nat} (hd : b = a + BitVec.ofNat 32 d)
    (hfirst : sz.bytes ≤ d) (hlast : d + sz'.bytes ≤ 2 ^ 24) :
    ∀ k ∈ s.cells fc' b sz', k ∉ s.cells fc a sz := by
  intro k hk hk'
  obtain ⟨j, hj, rfl⟩ := mem_cells_plain hm hb hk
  obtain ⟨i, hi, e⟩ := mem_cells_plain hm ha hk'
  rw [hd, BitVec.toNat_add, BitVec.toNat_ofNat] at e
  omega

/-- A load of the same size at the same address finds what was stored (R63). -/
theorem load_store_same {s : State} (hm : s.platform.memMap = []) (fc : BitVec 3) {a : Long} {sz : Size}
    (v : BitVec sz.bits) (ha : sz ≠ .b → evenAddr a = true) : (s.store fc a sz v).load fc a sz = v := by
  have word : ∀ (s : State) (a : Long) (w : Word), (s.storeWord fc a w).wordAt fc a = w := fun s a w => by
    simp only [State.wordAt, State.cell_congr (State.storeWord_platform s fc a w)]
    exact Memory.getWord_setWord_same _ _ w
  cases sz with
  | b =>
    simp only [State.store, State.load, State.byteAt, State.cell_congr (State.storeByte_platform s fc a v)]
    exact Memory.get_set_same _ _ v
  | w => exact word s a v
  | l =>
    have he := ha nofun
    have he2 : evenAddr (a + 2) = true := by rw [evenAddr_add_two, he]
    generalize hs1 : s.storeWord fc a (v.extractLsb' 16 16) = s1
    have hm1 : s1.platform.memMap = [] := by rw [← hs1, State.storeWord_platform, hm]
    have apart : ∀ k ∈ s1.cells fc a .w, k ∉ s1.cells fc (a + 2) .w := fun k hk hk' =>
      cells_disjoint_plain hm1 (fun _ => he) (fun _ => he2) (d := 2) rfl (by decide) (by decide) k hk' hk
    have high : (s1.storeWord fc (a + 2) (v.extractLsb' 0 16)).wordAt fc a = v.extractLsb' 16 16 := by
      calc (s1.storeWord fc (a + 2) (v.extractLsb' 0 16)).wordAt fc a
        _ = s1.wordAt fc a := load_store_other (sz := .w) (sz' := .w) s1 _ apart
        _ = v.extractLsb' 16 16 := by rw [← hs1, word]
    simp only [State.store, State.load, hs1, high, word]
    exact BitVec.extractLsb'_append_extractLsb'_eq_extractLsb' (by omega) |>.trans (by simp)

/-- Settles O9: a load reads back the store of its own cells, and a store changes no others. -/
theorem loadAfterStore : Obligations.LoadAfterStore := fun s fc a sz v hm ha =>
  ⟨load_store_same hm fc v ha, store_memoryKept s fc a sz v⟩

/-! ## Pushes on the supervisor stack (00_scope.md R12) -/

/-- A word or long word pushed on the supervisor stack. -/
def State.pushed (s : State) (sz : Size) (v : BitVec sz.bits) : State :=
  { s with ssp := s.ssp - BitVec.ofNat 32 sz.bytes }.store 5 (s.ssp - BitVec.ofNat 32 sz.bytes) sz v

/-- The operand that lies on the supervisor stack so many bytes above its top. -/
def State.stacked (s : State) (k : Nat) (sz : Size) : BitVec sz.bits := s.load 5 (s.ssp + BitVec.ofNat 32 k) sz

section Pushed

variable (s : State) (sz : Size) (v : BitVec sz.bits)

@[simp] theorem State.pushed_d : (s.pushed sz v).d = s.d := State.store_d _ _ _ _ _
@[simp] theorem State.pushed_a : (s.pushed sz v).a = s.a := State.store_a _ _ _ _ _
@[simp] theorem State.pushed_usp : (s.pushed sz v).usp = s.usp := State.store_usp _ _ _ _ _
@[simp] theorem State.pushed_ssp : (s.pushed sz v).ssp = s.ssp - BitVec.ofNat 32 sz.bytes := State.store_ssp _ _ _ _ _
@[simp] theorem State.pushed_sr : (s.pushed sz v).sr = s.sr := State.store_sr _ _ _ _ _
@[simp] theorem State.pushed_run : (s.pushed sz v).run = s.run := State.store_run _ _ _ _ _
@[simp] theorem State.pushed_tracePending : (s.pushed sz v).tracePending = s.tracePending :=
  State.store_tracePending _ _ _ _ _
@[simp] theorem State.pushed_window : (s.pushed sz v).window = s.window := State.store_window _ _ _ _ _
@[simp] theorem State.pushed_platform : (s.pushed sz v).platform = s.platform := State.store_platform _ _ _ _ _
@[simp] theorem State.pushed_resetIn : (s.pushed sz v).resetIn = s.resetIn := State.store_resetIn _ _ _ _ _

@[simp] theorem State.pushed_supervisor : (s.pushed sz v).supervisor = s.supervisor :=
  State.supervisor_congr (State.pushed_sr s sz v)

theorem pushed_memoryKept : MemoryKept (s.cells 5 (s.ssp - BitVec.ofNat 32 sz.bytes) sz) s (s.pushed sz v) :=
  store_memoryKept { s with ssp := s.ssp - BitVec.ofNat 32 sz.bytes } 5 _ sz v

end Pushed

theorem push32_supervisor {s : State} {v : Long} (hs : s.supervisor = true)
    (h : s.canStore 5 (s.ssp - 4) .l = true) : push32 v s = .ok () (s.pushed .l v) := by
  have store := push32_ok (s := s) (v := v) (by rw [dataFc_supervisor hs, areg_sp_supervisor hs]; exact h)
  rw [store, dataFc_supervisor hs, areg_sp_supervisor hs, setAreg_sp_supervisor hs]
  rfl

theorem push16_supervisor {s : State} {v : Word} (hs : s.supervisor = true)
    (h : s.canStore 5 (s.ssp - 2) .w = true) : push16 v s = .ok () (s.pushed .w v) := by
  have store := push16_ok (s := s) (v := v) (by rw [dataFc_supervisor hs, areg_sp_supervisor hs]; exact h)
  rw [store, dataFc_supervisor hs, areg_sp_supervisor hs, setAreg_sp_supervisor hs]
  rfl

theorem evenAddr_sub_even {a : Long} {n : Nat} (hn : n % 2 = 0) (h : evenAddr a = true) :
    evenAddr (a - BitVec.ofNat 32 n) = true := by
  rw [evenAddr_iff] at *
  rw [BitVec.toNat_sub, BitVec.toNat_ofNat]
  omega

theorem evenAddr_add_even {a : Long} {n : Nat} (hn : n % 2 = 0) (h : evenAddr a = true) :
    evenAddr (a + BitVec.ofNat 32 n) = true := by
  rw [evenAddr_iff] at *
  rw [BitVec.toNat_add, BitVec.toNat_ofNat]
  omega

theorem Size.bytes_even {sz : Size} (h : sz ≠ .b) : sz.bytes % 2 = 0 := by
  cases sz with
  | b => exact absurd rfl h
  | w | l => rfl

theorem Size.bytes_le_four (sz : Size) : sz.bytes ≤ 4 := by
  cases sz with
  | b | w | l => decide

/-- What has been pushed lies on top of the stack. -/
theorem stacked_pushed_top {s : State} (hm : s.platform.memMap = []) (he : evenAddr s.ssp = true) {sz : Size}
    (hs : sz ≠ .b) (v : BitVec sz.bits) : (s.pushed sz v).stacked 0 sz = v := by
  have hw := Size.bytes_even hs
  have top := evenAddr_sub_even hw he
  simp only [State.stacked, State.pushed_ssp, BitVec.ofNat_eq_ofNat, BitVec.add_zero]
  exact load_store_same (s := { s with ssp := s.ssp - BitVec.ofNat 32 sz.bytes }) hm 5 v fun _ => top

/-- What lay on the stack lies there still, deeper by what has been pushed. -/
theorem stacked_pushed_deeper {s : State} (hm : s.platform.memMap = []) (he : evenAddr s.ssp = true) {sz sz' : Size}
    (hs : sz ≠ .b) (v : BitVec sz.bits) {k : Nat} (hk : k % 2 = 0) (hfar : k < 2 ^ 23) :
    (s.pushed sz v).stacked (sz.bytes + k) sz' = s.stacked k sz' := by
  have hw := Size.bytes_even hs
  have hsz := Size.bytes_le_four sz
  have hsz' := Size.bytes_le_four sz'
  have depth : s.ssp - BitVec.ofNat 32 sz.bytes + BitVec.ofNat 32 (sz.bytes + k) = s.ssp + BitVec.ofNat 32 k := by
    rw [BitVec.ofNat_add, ← BitVec.add_assoc, BitVec.sub_add_cancel]
  simp only [State.stacked, State.pushed_ssp, depth]
  refine load_store_other { s with ssp := s.ssp - BitVec.ofNat 32 sz.bytes } v ?_
  exact cells_disjoint_plain hm (fun _ => evenAddr_sub_even hw he) (fun _ => evenAddr_add_even hk he) depth.symm
    (by omega) (by omega)

/-- In supervisor mode, the stack has grown by so many bytes since the first state. -/
structure Grown (s : State) (n : Nat) (t : State) : Prop where
  supervisor : t.supervisor = true
  ssp : t.ssp = s.ssp - BitVec.ofNat 32 n
  platform : t.platform = s.platform
  resetIn : t.resetIn = s.resetIn

section Grown

variable {s t : State} {n : Nat}

theorem Grown.ssp_sub (h : Grown s n t) (k : Nat) : t.ssp - BitVec.ofNat 32 k = s.ssp - BitVec.ofNat 32 (n + k) := by
  rw [h.ssp, BitVec.ofNat_add]
  exact sub_sub _ _ _

theorem Grown.pushed (h : Grown s n t) (sz : Size) (v : BitVec sz.bits) : Grown s (n + sz.bytes) (t.pushed sz v) where
  supervisor := by rw [State.pushed_supervisor, h.supervisor]
  ssp := by rw [State.pushed_ssp, h.ssp_sub]
  platform := by rw [State.pushed_platform, h.platform]
  resetIn := by rw [State.pushed_resetIn, h.resetIn]

theorem Grown.evenAddr (h : Grown s n t) (hn : n % 2 = 0) (he : evenAddr s.ssp = true) : evenAddr t.ssp = true := by
  rw [h.ssp]
  exact evenAddr_sub_even hn he

theorem Grown.canStore (h : Grown s n t) {k : Nat} {sz : Size}
    (hk : s.canStore 5 (s.ssp - BitVec.ofNat 32 (n + k)) sz = true) :
    t.canStore 5 (t.ssp - BitVec.ofNat 32 k) sz = true := by
  rw [State.canStore_congr h.platform h.resetIn, h.ssp_sub, hk]

theorem Grown.push32 (h : Grown s n t) {v : Long} (hk : s.canStore 5 (s.ssp - BitVec.ofNat 32 (n + 4)) .l = true) :
    push32 v t = .ok () (t.pushed .l v) := push32_supervisor h.supervisor (h.canStore hk)

theorem Grown.push16 (h : Grown s n t) {v : Word} (hk : s.canStore 5 (s.ssp - BitVec.ofNat 32 (n + 2)) .w = true) :
    push16 v t = .ok () (t.pushed .w v) := push16_supervisor h.supervisor (h.canStore hk)

/-- A push leaves the memory outside its own cells. -/
theorem Grown.memoryKept (h : Grown s n t) (sz : Size) (v : BitVec sz.bits) {c : List Nat} (hm : MemoryKept c s t) :
    MemoryKept (c ++ s.cells 5 (s.ssp - BitVec.ofNat 32 (n + sz.bytes)) sz) s (t.pushed sz v) := by
  have push := pushed_memoryKept t sz v
  rw [h.ssp_sub, State.cells_congr h.platform] at push
  exact (hm.mono fun _ => List.mem_append_left _).trans (push.mono fun _ => List.mem_append_right _) h.platform

end Grown

/-! ## The entry of a bus or address error (60_exceptions.md R373, R384) -/

/-- The state in which the entry's first step leaves the machine, after its three free draws. -/
def State.errorRaised (s : State) : State :=
  { s with sr := entrySr s.sr none, run := .running, tracePending := false, window := .error, draws := s.draws + 3 }

/-- The state after the seven-word frame has been pushed. -/
def State.errorFramed (s : State) (pc : Long) (ir : Word) (addr : Long) (access : Word) : State :=
  ((((s.errorRaised.pushed .l pc).pushed .w s.sr).pushed .w ir).pushed .l addr).pushed .w access

/-- The state in which the handler of the error starts. -/
def State.errorEntered (s : State) (e : AccessError) (pc : Long) (ir : Word) (addr : Long) (access : Word) : State :=
  (s.errorFramed pc ir addr access).jump ((s.errorFramed pc ir addr access).load 5 (vectorAddr e.vector) .l)

theorem grown_errorRaised (s : State) : Grown s 0 s.errorRaised :=
  ⟨entrySr_supervisor s.sr none, (BitVec.sub_zero s.ssp).symm, rfl, rfl⟩

/-- The frame's pushes and the vector fetch each complete. -/
theorem canFrame_parts {s : State} {e : AccessError} (h : s.canFrame e = true) :
    evenAddr s.ssp = true ∧ s.canStore 5 (s.ssp - 4) .l = true ∧ s.canStore 5 (s.ssp - 6) .w = true ∧
    s.canStore 5 (s.ssp - 8) .w = true ∧ s.canStore 5 (s.ssp - 12) .l = true ∧ s.canStore 5 (s.ssp - 14) .w = true ∧
    s.canRead 5 (vectorAddr e.vector) .l = true := by
  simp only [State.canFrame, Bool.and_eq_true, List.all_eq_true, List.forall_mem_cons] at h
  obtain ⟨⟨he, k2, k4, k6, k8, k10, k12, k14, -⟩, hv⟩ := h
  have even : ∀ n, n % 2 = 0 → evenAddr (s.ssp - BitVec.ofNat 32 n) = true := fun n hn => evenAddr_sub_even hn he
  have low2 : s.ssp - 4 + 2 = s.ssp - 2 := by bv_omega
  have low10 : s.ssp - 12 + 2 = s.ssp - 10 := by bv_omega
  simp only [State.canStore, Bool.and_eq_true, low2, low10]
  exact ⟨he, ⟨⟨even 4 rfl, k4⟩, k2⟩, ⟨even 6 rfl, k6⟩, ⟨even 8 rfl, k8⟩, ⟨⟨even 12 rfl, k12⟩, k10⟩, ⟨even 14 rfl, k14⟩, hv⟩

theorem canFrame_quiet {s : State} {e : AccessError} (h : s.canFrame e = true) : s.resetIn = none := by
  obtain ⟨-, -, h6, -⟩ := canFrame_parts h
  simp only [State.canStore, Bool.and_eq_true] at h6
  exact State.storable_quiet h6.2

theorem enterHandler_ok {s t : State} {n : Nat} {v : Byte} (g : Grown s n t)
    (h : s.canRead 5 (vectorAddr v) .l = true) : enterHandler v t = .ok () (t.jump (t.load 5 (vectorAddr v) .l)) := by
  have fc := dataFc_supervisor g.supervisor
  unfold enterHandler
  rw [run_bind_ok (memRead_ok (by rw [fc, State.canRead_congr g.platform g.resetIn, h])), fc]
  rfl

/-- An entry that can complete leaves the state `errorEntered`. -/
theorem enterAccessError_ok {s : State} {e : AccessError} (h : s.canFrame e = true) (cyc : Cycle) (inExc : Bool)
    (p : Progress) :
    enterAccessError e cyc inExc p s = .ok () (s.errorEntered e (framePc p (Config.free s.draws))
      (frameIr p inExc s.ir (Config.free (s.draws + 1))) cyc.addr
      (accessWord cyc inExc (Config.free (s.draws + 2)))) := by
  obtain ⟨-, k4, k6, k8, k12, k14, hv⟩ := canFrame_parts h
  have g0 := grown_errorRaised s
  apply inException_ok
  simp only [run_look_bind, run_update_bind, run_draw_bind, Nat.add_assoc, Nat.reduceAdd]
  generalize framePc p (Config.free s.draws) = pc
  generalize frameIr p inExc s.ir (Config.free (s.draws + 1)) = ir
  generalize accessWord cyc inExc (Config.free (s.draws + 2)) = access
  have g4 := g0.pushed .l pc
  have g6 := g4.pushed .w s.sr
  have g8 := g6.pushed .w ir
  have g12 := g8.pushed .l cyc.addr
  have g14 := g12.pushed .w access
  calc _ = (push32 pc >>= fun _ => push16 s.sr >>= fun _ => push16 ir >>= fun _ => push32 cyc.addr >>= fun _ =>
              push16 access >>= fun _ => enterHandler e.vector) s.errorRaised := rfl
    _ = enterHandler e.vector (s.errorFramed pc ir cyc.addr access) := by
      rw [run_bind_ok (g0.push32 k4), run_bind_ok (g4.push16 k6), run_bind_ok (g6.push16 k8),
        run_bind_ok (g8.push32 k12), run_bind_ok (g12.push16 k14)]
      rfl
    _ = .ok () (s.errorEntered e pc ir cyc.addr access) := enterHandler_ok g14 hv

/-- The words of the frame as the handler finds them, from the top of the stack down (R384). -/
theorem errorFramed_stacked {s : State} (hm : s.platform.memMap = []) (he : evenAddr s.ssp = true) (pc : Long) (ir : Word)
    (addr : Long) (access : Word) :
    let t := s.errorFramed pc ir addr access
    t.stacked 0 .w = access ∧ t.stacked 2 .l = addr ∧ t.stacked 6 .w = ir ∧ t.stacked 8 .w = s.sr ∧ t.stacked 10 .l = pc := by
  have g0 := grown_errorRaised s
  have g4 := g0.pushed .l pc
  have g6 := g4.pushed .w s.sr
  have g8 := g6.pushed .w ir
  have g12 := g8.pushed .l addr
  have top : ∀ {n t}, Grown s n t → n % 2 = 0 → ∀ sz, sz ≠ .b → ∀ v, (t.pushed sz v).stacked 0 sz = v :=
    fun g hn _ hs v => stacked_pushed_top (by rw [g.platform, hm]) (g.evenAddr hn he) hs v
  have deeper : ∀ {n t}, Grown s n t → n % 2 = 0 → ∀ sz, sz ≠ .b → ∀ v k sz', k % 2 = 0 ∧ k < 2 ^ 23 →
      (t.pushed sz v).stacked (sz.bytes + k) sz' = t.stacked k sz' :=
    fun g hn _ hs v _ _ hk => stacked_pushed_deeper (by rw [g.platform, hm]) (g.evenAddr hn he) hs v hk.1 hk.2
  have t4 := top g0 rfl .l nofun pc
  have t6 := top g4 rfl .w nofun s.sr
  have t8 := top g6 rfl .w nofun ir
  have t12 := top g8 rfl .l nofun addr
  have t14 := top g12 rfl .w nofun access
  have d6 := deeper g4 rfl .w nofun s.sr
  have d8 := deeper g6 rfl .w nofun ir
  have d12 := deeper g8 rfl .l nofun addr
  have d14 := deeper g12 rfl .w nofun access
  exact ⟨t14,
    (d14 0 _ (by decide)).trans t12,
    (d14 4 _ (by decide)).trans <| (d12 0 _ (by decide)).trans t8,
    (d14 6 _ (by decide)).trans <| (d12 2 _ (by decide)).trans <| (d8 0 _ (by decide)).trans t6,
    (d14 8 _ (by decide)).trans <| (d12 4 _ (by decide)).trans <| (d8 2 _ (by decide)).trans <|
      (d6 0 _ (by decide)).trans t4⟩

/-- The pushes write the cells of the frame only. -/
theorem errorFramed_memoryKept (s : State) (pc : Long) (ir : Word) (addr : Long) (access : Word) :
    MemoryKept s.frameCells s (s.errorFramed pc ir addr access) := by
  have g0 := grown_errorRaised s
  have g4 := g0.pushed .l pc
  have g6 := g4.pushed .w s.sr
  have g8 := g6.pushed .w ir
  have g12 := g8.pushed .l addr
  have k0 : MemoryKept [] s s.errorRaised := MemoryKept.of_mem rfl rfl
  have k14 := g12.memoryKept .w access <| g8.memoryKept .l addr <| g6.memoryKept .w ir <| g4.memoryKept .w s.sr <|
    g0.memoryKept .l pc k0
  have low : s.ssp - 8 + 2 = s.ssp - 6 := by bv_omega
  refine k14.mono fun k hk => ?_
  simp only [State.frameCells, State.cells, low]
  simp only [State.cells, List.mem_append, List.mem_cons, List.not_mem_nil] at hk ⊢
  tauto

theorem errorFramed_grown (s : State) (pc : Long) (ir : Word) (addr : Long) (access : Word) :
    Grown s 14 (s.errorFramed pc ir addr access) :=
  ((((grown_errorRaised s).pushed .l pc).pushed .w s.sr).pushed .w ir).pushed .l addr |>.pushed .w access

/-- The machine with the frame pushed: what the pushes leave, and the words that the stack then holds. -/
structure ErrorFrame (s : State) (pc : Long) (ir : Word) (addr : Long) (access : Word) (u : State) : Prop where
  grown : Grown s 14 u
  memory : MemoryKept s.frameCells s u
  registers : u.d = s.d ∧ u.a = s.a ∧ u.usp = s.usp
  sr : u.sr = entrySr s.sr none
  run : u.run = .running
  window : u.window = .error
  trace : u.tracePending = false
  words : u.stacked 0 .w = access ∧ u.stacked 2 .l = addr ∧ u.stacked 6 .w = ir ∧ u.stacked 8 .w = s.sr ∧
    u.stacked 10 .l = pc

theorem errorFramed_frame {s : State} (hm : s.platform.memMap = []) (he : evenAddr s.ssp = true) (pc : Long) (ir : Word)
    (addr : Long) (access : Word) : ErrorFrame s pc ir addr access (s.errorFramed pc ir addr access) where
  grown := errorFramed_grown s pc ir addr access
  memory := errorFramed_memoryKept s pc ir addr access
  registers := by simp [State.errorFramed, State.errorRaised]
  sr := by simp [State.errorFramed, State.errorRaised]
  run := by simp [State.errorFramed, State.errorRaised]
  window := by simp [State.errorFramed, State.errorRaised]
  trace := by simp [State.errorFramed, State.errorRaised]
  words := errorFramed_stacked hm he pc ir addr access

theorem entrySr_mask (sr : Word) : (entrySr sr none).extractLsb' 8 3 = sr.extractLsb' 8 3 := by
  apply BitVec.eq_of_getLsbD_eq
  intro i hi
  have : i = 0 ∨ i = 1 ∨ i = 2 := by omega
  rcases this with rfl | rfl | rfl <;> simp [entrySr]

/-- The low bits of the access word: direction, I/N clear, function code (R384). -/
def accessBits (cyc : Cycle) : BitVec 5 := BitVec.ofBool cyc.read ++ (BitVec.ofBool false ++ cyc.fc)

theorem accessWord_low (cyc : Cycle) (free : Long) : (accessWord cyc false free).setWidth 5 = accessBits cyc :=
  (BitVec.setWidth_append (x := free.extractLsb' 0 11) (y := accessBits cyc)).trans (by simp)

/-- What the handler of a bus or address error finds, for an access cut off outside exception processing: the frame of
`ErrorTaken`, the saved SR, and the open words of the frame; the other registers are those of before. -/
structure ErrorEntry (s : State) (saved : Word) (e : AccessError) (cyc : Cycle) (p : Progress) (t : State) : Prop where
  taken : ErrorTaken s t e (accessBits cyc) cyc.addr
  registers : t.d = s.d ∧ t.a = s.a ∧ t.usp = s.usp
  ir : ∃ free, t.load 5 (t.ssp + 6) .w = frameIr p false s.ir free
  sr : t.load 5 (t.ssp + 8) .w = saved
  pc : ∃ free, t.load 5 (t.ssp + 10) .l = framePc p free

/-- The handler's start changes PC only: it finds the frame as pushed. -/
theorem ErrorFrame.entry {s u : State} {e : AccessError} {cyc : Cycle} {p : Progress} {f1 f2 f3 : Long}
    (h : ErrorFrame s (framePc p f1) (frameIr p false s.ir f2) cyc.addr (accessWord cyc false f3) u) :
    ErrorEntry s s.sr e cyc p (u.jump (u.load 5 (vectorAddr e.vector) .l)) := by
  obtain ⟨w0, w2, w6, w8, w10⟩ := h.words
  have load : ∀ a sz, (u.jump (u.load 5 (vectorAddr e.vector) .l)).load 5 a sz = u.load 5 a sz := fun a sz =>
    State.load_congr (State.jump_platform _ _) (State.jump_mem _ _) 5 a sz
  have top : u.load 5 u.ssp .w = accessWord cyc false f3 := by simpa [State.stacked] using w0
  exact {
    taken := {
      ssp := h.grown.ssp
      supervisor := h.grown.supervisor
      tracing := by simpa [h.sr, State.tracing] using entrySr_trace s.sr none
      mask := by simpa [h.sr, State.mask] using entrySr_mask s.sr
      run := h.run
      window := h.window
      trace := h.trace
      pc := (load (vectorAddr e.vector) .l).symm
      access := by rw [load, State.jump_ssp, top, accessWord_low]
      addr := (load _ .l).trans w2
      saved := congrArg (BitVec.extractLsb' 5 11) ((load _ .w).trans w8)
      memory := h.memory }
    registers := h.registers
    ir := ⟨f2, (load _ .w).trans w6⟩
    sr := (load _ .w).trans w8
    pc := ⟨f1, (load _ .l).trans w10⟩ }

/-! ## What a cut-off access leaves (60_exceptions.md R373, D31) -/

theorem blendValue_self {α : Type} [DecidableEq α] (n i : Nat) (v : α) : blendValue n i v v = v := if_pos rfl

theorem blendCcr_self (n : Nat) (f : Ccr) : blendCcr n f f = f := by simp only [blendCcr, blendValue_self]

/-- Memory that has not been written is as before. -/
theorem blendMem_self (n : Nat) (m : Memory) : blendMem n m m = m := by
  unfold blendMem
  generalize m.map Prod.fst = ks
  induction ks with
  | nil => rfl
  | cons k ks ih => simpa [blendCell] using ih

theorem ccrBits_getLsbD (f : Ccr) :
    (ccrBits f).getLsbD 4 = f.x ∧ (ccrBits f).getLsbD 3 = f.n ∧ (ccrBits f).getLsbD 2 = f.z ∧
    (ccrBits f).getLsbD 1 = f.v ∧ (ccrBits f).getLsbD 0 = f.c := by
  obtain ⟨x, n, z, v, c⟩ := f
  revert x n z v c
  decide

theorem withCcr_ccrOf (w : Word) : withCcr w (ccrOf w) = w := by
  obtain ⟨hx, hn, hz, hv, hc⟩ := ccrBits_getLsbD (ccrOf w)
  apply BitVec.eq_of_getLsbD_eq
  intro i _
  by_cases h5 : 5 ≤ i
  · exact withCcr_high w _ i h5
  · rw [withCcr_getLsbD, if_pos (by omega)]
    have : i = 0 ∨ i = 1 ∨ i = 2 ∨ i = 3 ∨ i = 4 := by omega
    rcases this with rfl | rfl | rfl | rfl | rfl <;> assumption

theorem withCcr_withCcr (w : Word) (f g : Ccr) : withCcr (withCcr w f) g = withCcr w g :=
  congrArg (· ++ ccrBits g) (withCcr_system w f)

theorem setCcr_ccr_self (s : State) : s.setCcr s.ccr = s := by
  simp only [State.setCcr, State.ccr, withCcr_ccrOf]

/-- An instruction that is cut off when it has set flags at most: each flag is old or new, and a free draw is used. -/
theorem blend_setCcr (s : State) (f : Ccr) :
    blend s (s.setCcr f) = { s.setCcr (blendCcr s.draws s.ccr f) with draws := s.draws + 1 } := by
  have d : (Vector.ofFn fun i : Fin 8 => s.d[i]) = s.d := by ext; simp
  have a : (Vector.ofFn fun i : Fin 7 => s.a[i]) = s.a := by ext; simp
  simp only [blend, State.setCcr, ccrOf_withCcr, withCcr_withCcr, blendMem_self, blendValue_self, State.ccr, d, a]

theorem canFrame_congr {s t : State} (hp : t.platform = s.platform) (hr : t.resetIn = s.resetIn) (hs : t.ssp = s.ssp)
    (e : AccessError) : t.canFrame e = s.canFrame e := by
  simp only [State.canFrame, State.storable_congr hp hr, State.canRead_congr hp hr, hs]

theorem mask_of_system (sr : Word) : (sr.extractLsb' 5 11).extractLsb' 3 3 = sr.extractLsb' 8 3 := by
  apply BitVec.eq_of_getLsbD_eq
  intro i hi
  simp only [BitVec.getLsbD_extractLsb', hi, show 3 + i < 11 by omega, decide_true, Bool.true_and,
    show 5 + (3 + i) = 8 + i by omega]

/-- An entry is one from every state that agrees in what it saves, keeps and reads. -/
theorem ErrorEntry.of_agreeing {s b t : State} {saved : Word} {e : AccessError} {cyc : Cycle} {p : Progress}
    (h : ErrorEntry b saved e cyc p t) (kept : Kept [] [] s b) (registers : b.d = s.d ∧ b.a = s.a ∧ b.usp = s.usp)
    (ssp : b.ssp = s.ssp) (mem : b.mem = s.mem) : ErrorEntry s saved e cyc p t := by
  obtain ⟨hd, ha, hu⟩ := registers
  have platform := kept.rest.platform
  have mask : b.mask = s.mask := by rw [State.mask, State.mask, ← mask_of_system, kept.rest.system, mask_of_system]
  have cells : b.frameCells = s.frameCells := by simp only [State.frameCells, State.cells_congr platform, ssp]
  exact {
    taken := { h.taken with
      ssp := by rw [h.taken.ssp, ssp]
      mask := by rw [h.taken.mask, mask]
      saved := by rw [h.taken.saved, kept.rest.system]
      memory := by
        have before : MemoryKept s.frameCells s b := (MemoryKept.of_mem mem platform).mono (by simp)
        exact before.trans (cells ▸ h.taken.memory) platform }
    registers := by rw [← hd, ← ha, ← hu]; exact h.registers
    ir := by rw [← kept.rest.ir]; exact h.ir
    sr := h.sr
    pc := h.pc }

/-- The processing of an error that cut off an instruction with no register changed but flags: the entry is taken, and
the saved flags are each old or new. -/
theorem accessErrorTaken_setCcr {s : State} {e : AccessError} (hm : s.platform.memMap = []) (hc : s.canFrame e = true)
    (f : Ccr) (cyc : Cycle) (p : Progress) :
    ∃ t, accessErrorTaken s (s.setCcr f) e cyc false p = .next t ∧
      ErrorEntry s (withCcr s.sr (blendCcr s.draws s.ccr f)) e cyc p t := by
  simp only [accessErrorTaken, blend_setCcr]
  generalize hb : ({ s.setCcr (blendCcr s.draws s.ccr f) with draws := s.draws + 1 } : State) = b
  have kept : Kept [] [] s b :=
    hb ▸ (kept_setCcr s (blendCcr s.draws s.ccr f)).trans (changes_draw _).kept
  have frame : b.canFrame e = true := by rw [← hc, ← hb]; exact canFrame_congr rfl rfl rfl e
  have sr : withCcr s.sr (blendCcr s.draws s.ccr f) = b.sr := by rw [← hb]; rfl
  obtain ⟨even, -⟩ := canFrame_parts frame
  have words := errorFramed_frame (by rw [kept.rest.platform, hm]) even
    (framePc p (Config.free b.draws)) (frameIr p false b.ir (Config.free (b.draws + 1))) cyc.addr
    (accessWord cyc false (Config.free (b.draws + 2)))
  rw [enterAccessError_ok frame, sr]
  refine ⟨_, rfl, words.entry.of_agreeing kept ?_ ?_ ?_⟩ <;> simp [← hb]

/-- Where not even a flag had changed, SR is saved as it was. -/
theorem accessErrorTaken_unchanged {s : State} {e : AccessError} (hm : s.platform.memMap = [])
    (hc : s.canFrame e = true) (cyc : Cycle) (p : Progress) :
    ∃ t, accessErrorTaken s s e cyc false p = .next t ∧ ErrorEntry s s.sr e cyc p t := by
  have taken := accessErrorTaken_setCcr hm hc s.ccr cyc p
  rwa [setCcr_ccr_self, blendCcr_self, State.ccr, withCcr_ccrOf] at taken

/-- The word that holds the odd byte after an even address begins at that address. -/
theorem evenOf_add_one {a : Long} (h : evenAddr a = true) : evenOf (a + 1) = a := by
  have low : a.getLsbD 0 = false := by simpa only [evenAddr, Bool.not_eq_true'] using h
  have bits : ∀ i < 32, (0xFFFFFFFE : Long).getLsbD i = decide (i ≠ 0) ∧ (1 : Long).getLsbD i = decide (i = 0) := by
    decide
  have apart : a &&& 1 = 0 := by
    apply BitVec.eq_of_getLsbD_eq
    intro i hi
    obtain ⟨-, one⟩ := bits i hi
    rw [BitVec.getLsbD_and, one]
    by_cases h0 : i = 0
    · rw [h0, low]; rfl
    · simp [h0]
  rw [evenOf, BitVec.add_eq_or_of_and_eq_zero _ _ apart]
  apply BitVec.eq_of_getLsbD_eq
  intro i hi
  obtain ⟨mask, one⟩ := bits i hi
  rw [BitVec.getLsbD_and, BitVec.getLsbD_or, mask, one]
  by_cases h0 : i = 0
  · rw [h0, low]; rfl
  · simp [h0]

/-- The PC word of the frame lies 2 to 10 bytes after the start of an instruction at an even address (D12). -/
theorem pcNear_even {pc : Long} (h : evenAddr pc = true) (free : Long) :
    ∃ k : Nat, k < 5 ∧ pcNear (pc - 2) free = pc + BitVec.ofNat 32 (2 * k) := by
  have start : (pc - 2).getLsbD 0 = false := by
    have even := evenAddr_sub_even (n := 2) rfl h
    simpa [evenAddr] using even
  have round : evenOf (pc - 2 + 3) = pc := by
    rw [show pc - 2 + 3 = pc + 1 by bv_omega, evenOf_add_one h]
  refine ⟨free.toNat % 5, Nat.mod_lt _ (by decide), ?_⟩
  simp only [pcNear, start, round, Bool.false_eq_true, ↓reduceIte, BitVec.ofNat_mul]
  rfl

/-- What the frame says of an instruction in progress at an even address. -/
theorem ErrorEntry.inProgress {s t : State} {saved : Word} {e : AccessError} {cyc : Cycle}
    (h : ErrorEntry s saved e cyc (.instruction (s.pc - 2)) t) (hpc : evenAddr s.pc = true) :
    t.load 5 (t.ssp + 6) .w = s.ir ∧ ∃ k : Nat, k < 5 ∧ t.load 5 (t.ssp + 10) .l = s.pc + BitVec.ofNat 32 (2 * k) := by
  obtain ⟨f2, ir⟩ := h.ir
  obtain ⟨f1, pc⟩ := h.pc
  obtain ⟨k, hk, near⟩ := pcNear_even hpc f1
  exact ⟨ir, k, hk, pc.trans near⟩

/-! ## MOVE cut off at its operand (40_data_movement.md R162) -/

/-- A bus error on the first cycle of an aligned read (R71). -/
theorem readSized_busError {s : State} {fc : BitVec 3} {a : Long} {sz : Size} (he : sz ≠ .b → evenAddr a = true)
    (hq : s.resetIn = none) (h : s.answer (.reading fc a (decide (sz ≠ .b))) = .busError) :
    readSized fc a sz s = .error (.access .busError (.reading fc a (decide (sz ≠ .b))) false) s := by
  have word : evenAddr a = true → s.answer (.reading fc a true) = .busError →
      readWord fc a s = .error (.access .busError (.reading fc a true) false) s := fun he h => by
    unfold readWord
    rw [run_bind_ok (aligned_even he), run_bind_error (busCycle_busError hq h)]
  cases sz with
  | b => exact run_bind_error (busCycle_busError hq h)
  | w => exact word (he nofun) h
  | l => exact run_bind_error (word (he nofun) h)

/-- A bus error on the first cycle of an aligned write. -/
theorem writeSized_busError {s : State} {fc : BitVec 3} {a : Long} {sz : Size} {v : BitVec sz.bits}
    (he : sz ≠ .b → evenAddr a = true) (hq : s.resetIn = none)
    (h : ∀ w, s.answer (.writing fc a (decide (sz ≠ .b)) w) = .busError) :
    ∃ w, writeSized fc a sz v s = .error (.access .busError (.writing fc a (decide (sz ≠ .b)) w) false) s := by
  have word : evenAddr a = true → (∀ w, s.answer (.writing fc a true w) = .busError) →
      ∀ w, writeWord fc a w s = .error (.access .busError (.writing fc a true w) false) s := fun he h w => by
    unfold writeWord
    rw [run_bind_ok (aligned_even he), run_bind_error (busCycle_busError hq (h w))]
  cases sz with
  | b => exact ⟨_, run_bind_error (busCycle_busError hq (h _))⟩
  | w => exact ⟨v, word (he nofun) h v⟩
  | l => exact ⟨_, run_bind_error (word (he nofun) h _)⟩

theorem readEa_ind (sz : Size) (n : RegNo) (s : State) : readEa sz (.ind n) s = readSized s.dataFc (s.areg n) sz s := rfl

theorem writeEa_ind {sz : Size} (n : RegNo) (v : BitVec sz.bits) (s : State) :
    writeEa sz (.ind n) v s = writeSized s.dataFc (s.areg n) sz v s := rfl

/-- MOVE whose source is cut off by an error: nothing has changed (R162). -/
theorem exec_move_source_error {s : State} {sz : Size} {src : Ea} (dst : Ea) {e : AccessError} {cyc : Cycle}
    (hm : s.platform.memMap = []) (hc : s.canFrame e = true)
    (h : readEa sz src s = .error (.access e cyc false) s) :
    ∃ t, exec (.move sz src dst) s = .next t ∧ ErrorEntry s s.sr e cyc (.instruction (s.pc - 2)) t := by
  obtain ⟨t, ht, entry⟩ := accessErrorTaken_unchanged hm hc cyc (.instruction (s.pc - 2))
  refine ⟨t, ?_, entry⟩
  change execute _ s = _
  unfold execute
  rw [run_bind_error h]
  exact ht

/-- MOVE whose destination is cut off by an error: the flags may have been set (R162, log 14). -/
theorem exec_move_destination_error {s : State} {sz : Size} {src dst : Ea} {v : BitVec sz.bits} {e : AccessError}
    {cyc : Cycle} (hm : s.platform.memMap = []) (hc : s.canFrame e = true) (hv : readEa sz src s = .ok v s)
    (h : writeEa sz dst v (s.setCcr (moveFlags s.ccr v)) =
      .error (.access e cyc false) (s.setCcr (moveFlags s.ccr v))) :
    ∃ t saved, exec (.move sz src dst) s = .next t ∧ ErrorEntry s saved e cyc (.instruction (s.pc - 2)) t := by
  obtain ⟨t, ht, entry⟩ := accessErrorTaken_setCcr hm hc (moveFlags s.ccr v) cyc (.instruction (s.pc - 2))
  refine ⟨t, _, ?_, entry⟩
  change execute _ s = _
  unfold execute
  rw [run_bind_ok hv, run_setFlags_bind, h]
  exact ht

/-! ## The fetch of an operation word at an odd address (20_memory.md R70, D30) -/

theorem step_odd_pc {s : State} (hm : s.platform.memMap = []) (hrun : s.run = .running) (ht : s.tracePending = false)
    (hr : s.nextSample.reset = none) (hl : s.sampled.acceptedLevel = none) (hw : s.window = .none)
    (hpc : evenAddr s.pc = false) (hc : s.canFrame .addressError = true) :
    ∃ t, step s = .next t ∧
      ErrorEntry s.sampled s.sr .addressError (.reading s.progFc s.pc true) (.fetching s.pc) t := by
  obtain ⟨t, taken, entry⟩ := accessErrorTaken_unchanged (s := s.sampled) hm
    (by rw [← hc]; exact canFrame_congr rfl rfl rfl _) (.reading s.progFc s.pc true) (.fetching s.pc)
  have fetch : fetchOpword s.sampled =
      .error (.access .addressError (.reading s.progFc s.pc true) false) s.sampled := by
    unfold fetchOpword
    rw [run_look_bind]
    exact run_bind_error (fetch16_odd (s := s.sampled) hpc)
  refine ⟨t, ?_, entry⟩
  rw [step_quiet hr, boundaryStep_sampled (by simp [hrun]) ht]
  simp only [sampledStep, hl]
  rw [if_neg (by simp [State.sampled, hrun]), runInstruction, fetch]
  exact (finishBoundary_single hw).trans taken

/-! ## The low bits of the access word in either mode (R384) -/

theorem accessBits_reading_data (s : State) (a : Long) (wide : Bool) :
    accessBits (.reading s.dataFc a wide) = if s.supervisor then 0x15 else 0x11 := by
  cases hs : s.supervisor <;> simp [accessBits, Cycle.reading, State.dataFc, hs]

theorem accessBits_writing_data (s : State) (a : Long) (wide : Bool) (w : Word) :
    accessBits (.writing s.dataFc a wide w) = if s.supervisor then 0x05 else 0x01 := by
  cases hs : s.supervisor <;> simp [accessBits, Cycle.writing, State.dataFc, hs]

theorem accessBits_fetching (s : State) (a : Long) :
    accessBits (.reading s.progFc a true) = if s.supervisor then 0x16 else 0x12 := by
  cases hs : s.supervisor <;> simp [accessBits, Cycle.reading, State.progFc, hs]

/-- Settles O49: each access is cut off before anything but flags has changed, so the error's entry is that of
`accessErrorTaken_setCcr` from the instruction's own state; `source` and `destination` serve the address error and the
bus error alike. -/
theorem oddOperandAddressError : Obligations.OddOperandAddressError := by
  intro s sz n m hm a read write fetch others inProgress
  have source : ∀ {e : AccessError} {wide : Bool}, evenAddr s.pc = true → s.canFrame e = true →
      readSized s.dataFc a sz s = .error (.access e (.reading s.dataFc a wide) false) s →
      ∃ t, exec (.move sz (.ind n) (.dn m)) s = .next t ∧ ErrorTaken s t e read a ∧ others t ∧ inProgress t ∧
        t.load 5 (t.ssp + 8) .w = s.sr := by
    intro e wide hpc hc h
    obtain ⟨t, ht, entry⟩ := exec_move_source_error (src := .ind n) (.dn m) hm hc h
    have taken := entry.taken
    rw [accessBits_reading_data] at taken
    exact ⟨t, ht, taken, entry.registers, entry.inProgress hpc, entry.sr⟩
  have destination : ∀ {e : AccessError} {wide : Bool}, evenAddr s.pc = true → s.canFrame e = true →
      (∀ (u : State) (v : BitVec sz.bits), u.platform = s.platform → u.resetIn = s.resetIn →
        ∃ w, writeSized s.dataFc a sz v u = .error (.access e (.writing s.dataFc a wide w) false) u) →
      ∃ t, exec (.move sz (.dn m) (.ind n)) s = .next t ∧ ErrorTaken s t e write a ∧ others t ∧ inProgress t := by
    intro e wide hpc hc h
    let v := lowPart sz (s.dreg m)
    obtain ⟨w, hw⟩ := h (s.setCcr (moveFlags s.ccr v)) v rfl rfl
    have cut : writeEa sz (.ind n) v (s.setCcr (moveFlags s.ccr v)) =
        .error (.access e (.writing s.dataFc a wide w) false) (s.setCcr (moveFlags s.ccr v)) := by
      rw [writeEa_ind, State.setCcr_dataFc, State.setCcr_areg, hw]
    obtain ⟨t, saved, ht, entry⟩ := exec_move_destination_error (src := .dn m) hm hc rfl cut
    have taken := entry.taken
    rw [accessBits_writing_data] at taken
    exact ⟨t, ht, taken, entry.registers, entry.inProgress hpc⟩
  refine ⟨fun hsz hodd hpc hc => ?_, fun heven hpc hc => ?_, fun hrun ht hr hl hw hpc hc => ?_⟩
  · exact ⟨source hpc hc (readSized_odd hsz hodd), destination hpc hc fun u v _ _ => writeSized_odd hsz hodd⟩
  · have quiet := canFrame_quiet hc
    exact ⟨fun h => source hpc hc (readSized_busError heven quiet h), fun h => destination hpc hc fun u v hp hr =>
      writeSized_busError heven (hr.trans quiet) fun w => (State.answer_congr hp _).trans (h w)⟩
  · obtain ⟨t, ht, entry⟩ := step_odd_pc hm hrun ht hr hl hw hpc hc
    have taken : ErrorTaken s t .addressError _ s.pc := { entry.taken with }
    rw [accessBits_fetching] at taken
    exact ⟨t, ht, taken, entry.registers, entry.sr⟩

end Sys2Proof.Machine

/-! # Data movement (40_data_movement.md, 46_program_control.md R294, R297)

Each proof runs the instruction's computation with the rules for its operations and composes the frames of the updates it
makes. The transfers of MOVEM and MOVEP go by induction on the registers or bytes still to come. -/

namespace Sys2Proof.Machine

/-! ## Stores and register writes seen through the views of the state -/

theorem State.dataFc_congr {s t : State} (h : t.sr = s.sr) : t.dataFc = s.dataFc := by
  simp [State.dataFc, State.supervisor_congr h]

@[simp] theorem State.setDreg_dataFc (s : State) (n : RegNo) (v : Long) : (s.setDreg n v).dataFc = s.dataFc := rfl

@[simp] theorem State.setAreg_dataFc (s : State) (n : RegNo) (v : Long) : (s.setAreg n v).dataFc = s.dataFc :=
  State.dataFc_congr (by simp)

section Store

variable (s : State) (fc : BitVec 3) (a : Long) (sz : Size) (v : BitVec sz.bits)

@[simp] theorem State.store_dataFc : (s.store fc a sz v).dataFc = s.dataFc := State.dataFc_congr (by simp)

@[simp] theorem State.store_dreg (n : RegNo) : (s.store fc a sz v).dreg n = s.dreg n := State.dreg_congr (by simp) n

@[simp] theorem State.store_areg (n : RegNo) : (s.store fc a sz v).areg n = s.areg n :=
  (kept_store s fc a sz v).aregs n List.not_mem_nil

@[simp] theorem State.store_rreg (i : Fin 16) : (s.store fc a sz v).rreg i = s.rreg i := by simp [State.rreg]

@[simp] theorem State.store_canStore (fc' : BitVec 3) (b : Long) (sz' : Size) :
    (s.store fc a sz v).canStore fc' b sz' = s.canStore fc' b sz' := State.canStore_congr (by simp) (by simp) fc' b sz'

end Store

theorem State.setDreg_setDreg (s : State) (n : RegNo) (v w : Long) : (s.setDreg n v).setDreg n w = s.setDreg n w := by
  simp [State.setDreg]

theorem State.setDreg_dreg_self (s : State) (n : RegNo) : s.setDreg n (s.dreg n) = s := by
  simp [State.setDreg, State.dreg]

/-- After an exchange the register written first holds the other's value, also where both are one register. -/
theorem State.setAreg_areg_exchanged (s : State) (x y : RegNo) :
    ((s.setAreg x (s.areg y)).setAreg y (s.areg x)).areg x = s.areg y := by
  by_cases h : x = y
  · subst h; simp
  · rw [State.setAreg_areg_other _ _ h, State.setAreg_areg_same]

theorem State.setDreg_dreg_exchanged (s : State) (x y : RegNo) :
    ((s.setDreg x (s.dreg y)).setDreg y (s.dreg x)).dreg x = s.dreg y := by
  by_cases h : x = y
  · subst h; simp
  · rw [State.setDreg_dreg_other _ _ h, State.setDreg_dreg_same]

/-! ## Frames one after the other -/

/-- The frame of two parts, each with its own lists, in the order of the parts. -/
theorem Changes.append {ds ds' as as' : List RegNo} {c c' : List Nat} {s t u : State} (h : Changes ds as c s t)
    (k : Changes ds' as' c' t u) : Changes (ds ++ ds') (as ++ as') (c ++ c') s u :=
  (h.after k).mono (by simp [or_comm]) (by simp [or_comm]) (by simp [or_comm])

/-- A control mode changes no address register. -/
theorem Ea.updates_control {ea : Ea} (h : ea.isControl = true) : ea.updates = [] := by
  cases ea with
  | post n | pre n => simp [Ea.isControl] at h
  | _ => rfl

theorem eaAddr_control_kept {s t : State} {sz : Size} {ea : Ea} {a : Long} (hc : ea.isControl = true)
    (h : eaAddr sz ea s = .ok a t) : OperandKept [] s t := Ea.updates_control hc ▸ eaAddr_kept h

/-! ## Operation words of the spec -/

/-- Settles O4: the decoder computes each of the seven. -/
theorem specWordsDecode : Obligations.SpecWordsDecode := ⟨rfl, rfl, rfl, rfl, rfl, rfl, rfl⟩

/-! ## MOVE (R162, R163) -/

/-- MOVE whose source answers is the flags and the write of the destination, in the state that the source leaves. -/
theorem exec_move_source {sz : Size} {src : Ea} {s s1 : State} {v : BitVec sz.bits} (h : readEa sz src s = .ok v s1)
    {dst : Ea} {t : State} (hw : writeEa sz dst v (s1.setCcr (moveFlags s1.ccr v)) = .ok () t) :
    exec (.move sz src dst) s = .next t :=
  execute_ok <| by rw [run_bind_ok h, run_setFlags_bind, hw]

/-- Settles O10: the frames of source, flags, destination address and store, one after the other. -/
theorem moveResult : Obligations.MoveResult := by
  intro sz src s s1 v hv s2
  have flags : Changes [] src.updates [] s s2 := by
    simpa using (readEa_kept hv).changes.append (changes_setCcr s1 (moveFlags s1.ccr v))
  refine ⟨fun n => ⟨exec_move_source hv rfl, ?_⟩, ?_⟩
  · simpa using flags.append (changes_setDlow s2 n sz v)
  · intro dst a s3 hd ha hs t
    have address := eaAddr_kept ha
    refine ⟨exec_move_source hv (writeEa_memory hd ha hs), ?_, ?_⟩
    · simpa using (flags.append address.changes).append (changes_store s3 s3.dataFc a sz v)
    · calc t.ccr
        _ = s3.ccr := by simp [t, State.ccr]
        _ = s2.ccr := address.ccr
        _ = moveFlags s1.ccr v := State.setCcr_ccr s1 _

/-! ## Registers only (R165, R178, R209; 43_shift_rotate.md R264) -/

/-- Settles O11: each instruction is its updates; one register exchanged with itself is the case x = y of
`setAreg_areg_exchanged`. -/
theorem registerOnlyResult : Obligations.RegisterOnlyResult := by
  intro s x y
  refine ⟨fun data => rfl, rfl, rfl, rfl, ?data, ?address, ?mixed, fun f v => ⟨?_, fun w => ?_⟩⟩
  case data =>
    refine ⟨_, rfl, s.setDreg_dreg_exchanged x y, State.setDreg_dreg_same _ _ _, rfl, ?_⟩
    exact (changes_setDreg s x _).append (changes_setDreg _ y _)
  case address =>
    refine ⟨_, rfl, s.setAreg_areg_exchanged x y, State.setAreg_areg_same _ _ _, by simp, ?_⟩
    exact (changes_setAreg s x _).append (changes_setAreg _ y _)
  case mixed =>
    refine ⟨_, rfl, by simp, State.setAreg_areg_same _ _ _, by simp, ?_⟩
    exact (changes_setDreg s x _).append (changes_setAreg _ y _)
  · exact (changes_setCcr s f).append (changes_setDreg _ x v)
  · exact (changes_setCcr s f).append (changes_setDlow _ x .w w)

/-! ## Address registers (R164, R176, R192, R198) -/

/-- Settles O18: the write of the register follows the operand's evaluation. -/
theorem addressRegisterResult : Obligations.AddressRegisterResult := by
  constructor
  case left =>
    intro sz an ea s s1 v hv
    have read := readEa_kept hv
    refine ⟨execute_ok (run_bind_ok hv), execute_ok (run_bind_ok hv), execute_ok (run_bind_ok hv), fun r => ⟨?_, ?_⟩⟩
    · exact read.changes.after (changes_setAreg s1 an r)
    · rw [State.setAreg_sr, read.sr]
  case right =>
    intro an ea s s1 a hc ha
    have address := eaAddr_control_kept hc ha
    exact ⟨execute_ok (run_bind_ok ha), address.changes.append (changes_setAreg s1 an a), by
      rw [State.setAreg_sr, address.sr]⟩

/-! ## The stack (R177, R179, R180; 46_program_control.md R294, R297) -/

theorem branchTarget_kept {s t : State} {disp : Byte} {a : Long} (h : branchTarget disp s = .ok a t) :
    OperandKept [] s t := by
  unfold branchTarget at h
  simp only [run_look_bind] at h
  split at h
  · obtain ⟨_, s1, hf, hp⟩ := run_bind_eq_ok h
    simp only [run_pure, EStateM.Result.ok.injEq] at hp
    exact hp.2 ▸ fetch16_kept hf
  · simp only [run_pure, EStateM.Result.ok.injEq] at h
    exact h.2 ▸ OperandKept.refl _ _

/-- A long word stored where A7 then points, whatever is stored. -/
theorem changes_setSp_store (s : State) (sp : Long) (v : Long) :
    Changes [] [spReg] (s.cells s.dataFc sp .l) s ((s.setAreg spReg sp).store s.dataFc sp .l v) := by
  have store := changes_store (s.setAreg spReg sp) s.dataFc sp .l v
  rw [State.cells_congr (State.setAreg_platform s spReg sp)] at store
  exact (changes_setAreg s spReg sp).append store

/-- Settles O16: the push is one store below A7, and the jump changes nothing of the frame. -/
theorem pushingInstructions : Obligations.PushingInstructions := by
  intro s s1 a sp fc pushed hs
  have push : ∀ v, push32 v s1 = .ok () (pushed v) := fun v => push32_ok hs
  have frame : ∀ v, OperandKept [] s s1 → Changes [] [spReg] (s1.cells fc sp .l) s (pushed v) := fun v kept =>
    kept.changes.append (changes_setSp_store s1 sp v)
  have frameJump : ∀ v, OperandKept [] s s1 →
      Changes [] [spReg] (s1.cells fc sp .l) s ((pushed v).jump a) := fun v kept => by
    simpa using (frame v kept).append (changes_jump (pushed v) a)
  have sr : ∀ v, OperandKept [] s s1 → (pushed v).sr = s.sr := fun v kept => by simp [pushed, kept.sr]
  constructor
  case left =>
    intro ea hc ha
    have kept := eaAddr_control_kept hc ha
    refine ⟨execute_ok ?_, execute_ok ?_, frame a kept, frameJump _ kept, sr a kept, sr s1.pc kept⟩
    · rw [run_bind_ok ha, push]
    · rw [run_bind_ok ha, run_look_bind, run_bind_ok (push _), run_update]
  case right =>
    intro disp ha
    have kept := branchTarget_kept ha
    refine ⟨execute_ok ?_, frameJump _ kept, sr s1.pc kept⟩
    rw [run_bind_ok ha, run_look_bind, run_bind_ok (push _), run_update]

/-- Settles O17: each instruction is its updates in their order, which the frame lists again. -/
theorem linkAndUnlink : Obligations.LinkAndUnlink := by
  constructor
  case left =>
    intro an s s1 w hf s2 sp hs s3 t
    have fetch := fetch16_kept hf
    have write : memWrite .l sp (s2.areg an) s2 = .ok () (s2.store s1.dataFc sp .l (s2.areg an)) := by
      have h : s2.canStore s2.dataFc sp .l = true := by
        rwa [State.setAreg_dataFc, State.canStore_congr (State.setAreg_platform _ _ _) (State.setAreg_resetIn _ _ _)]
      rw [memWrite_ok h, State.setAreg_dataFc]
    have sp2 : s2.areg spReg = sp := State.setAreg_areg_same s1 spReg sp
    refine ⟨execute_ok ?_, ?_, by simp [t, s3, s2, fetch.sr]⟩
    · rw [run_bind_ok hf]
      simp only [run_update_bind, run_look_bind]
      rw [sp2, run_bind_ok write]
      simp only [run_update_bind, run_update, State.store_areg, sp2]
      rfl
    · have stored := fetch.changes.append (changes_setSp_store s1 sp (s2.areg an))
      have linked := stored.append (changes_setAreg _ an sp)
      have moved := linked.append (changes_setAreg s3 spReg (s3.areg spReg + w.signExtend 32))
      exact moved.mono (by simp) (by simp) (by simp)
  case right =>
    intro an s hr s2 t
    have read : memRead .l (s.areg an) (s.setAreg spReg (s.areg an)) =
        .ok (s.load s.dataFc (s.areg an) .l) (s.setAreg spReg (s.areg an)) := by
      have hp := State.setAreg_platform s spReg (s.areg an)
      rw [memRead_ok, State.setAreg_dataFc, State.load_congr hp (State.setAreg_mem _ _ _)]
      rwa [State.setAreg_dataFc, State.canRead_congr hp (State.setAreg_resetIn _ _ _)]
    refine ⟨execute_ok ?_, ?_, by simp [t, s2]⟩
    · simp only [run_update_bind, run_look_bind, State.setAreg_areg_same]
      rw [run_bind_ok read]
      rfl
    · have loaded := (changes_setAreg s spReg (s.areg an)).append (changes_setAreg _ an (s.load s.dataFc (s.areg an) .l))
      have moved := loaded.append (changes_setAreg s2 spReg (s2.areg spReg + 4))
      exact moved.mono (by simp) (by simp) (by simp)

/-! ## MOVEM (R166 to R170)

The listed registers are numbered from k on, so that the induction can go on at the next one; the j-th of them goes to or
comes from the address a plus j operand sizes. -/

/-- The registers that the mask lists, in the order of its bits, numbered from k on. -/
def movemListed (mask : Word) (is : List (Fin 16)) (k : Nat) : List (Fin 16 × Nat) :=
  (is.filter fun i => mask.getLsbD i.val).zipIdx k

section Listed

variable {mask : Word} {i : Fin 16}

theorem movemListed_cons_set (h : mask.getLsbD i.val = true) (is : List (Fin 16)) (k : Nat) :
    movemListed mask (i :: is) k = (i, k) :: movemListed mask is (k + 1) := by simp [movemListed, h]

theorem movemListed_cons_clear (h : mask.getLsbD i.val = false) (is : List (Fin 16)) (k : Nat) :
    movemListed mask (i :: is) k = movemListed mask is k := by
  unfold movemListed
  rw [List.filter_cons_of_neg (by simpa using h)]

/-- Only listed registers are numbered. -/
theorem mask_of_mem_movemListed {is : List (Fin 16)} {k : Nat} {p : Fin 16 × Nat} (h : p ∈ movemListed mask is k) :
    mask.getLsbD p.1.val = true := by
  have listed : p.1 ∈ is.filter fun i => mask.getLsbD i.val := (List.mem_zipIdx h).2.2 ▸ List.getElem_mem _
  exact (List.mem_filter.mp listed).2

end Listed

theorem address_succ (a : Long) (k n : Nat) :
    a + BitVec.ofNat 32 (k * n) + BitVec.ofNat 32 n = a + BitVec.ofNat 32 ((k + 1) * n) := by
  rw [BitVec.add_assoc, ← BitVec.ofNat_add, Nat.succ_mul]

theorem address_pred (a : Long) (k n : Nat) :
    a - BitVec.ofNat 32 (k * n) - BitVec.ofNat 32 n = a - BitVec.ofNat 32 ((k + 1) * n) := by
  rw [Nat.succ_mul, BitVec.ofNat_add]
  exact sub_sub _ _ _

/-- Stores one after the other change their cells. -/
theorem changes_foldl_store {α : Type} (fc : BitVec 3) (addr : α → Long) (sz : Size) (val : α → BitVec sz.bits)
    (ps : List α) (s : State) :
    Changes [] [] (ps.flatMap fun p => s.cells fc (addr p) sz) s
      (ps.foldl (fun t p => t.store fc (addr p) sz (val p)) s) := by
  induction ps generalizing s with
  | nil => exact Changes.refl _ _ _ _
  | cons p ps ih =>
    have rest := ih (s.store fc (addr p) sz (val p))
    simp only [State.cells_congr (State.store_platform s fc (addr p) sz (val p))] at rest
    exact (changes_store s fc (addr p) sz (val p)).append rest

theorem foldl_store_sr {α : Type} (fc : BitVec 3) (addr : α → Long) (sz : Size) (val : α → BitVec sz.bits)
    (ps : List α) (s : State) : (ps.foldl (fun t p => t.store fc (addr p) sz (val p)) s).sr = s.sr :=
  List.foldlRecOn (motive := fun t : State => t.sr = s.sr) ps _ rfl fun t ht p _ => by rw [State.store_sr, ht]

/-! ### To memory -/

/-- The transfers to rising addresses are the stores of the listed registers (R167). -/
theorem movemStore_ok {sz : Size} {mask : Word} {a : Long} (is : List (Fin 16)) (k : Nat) (s : State)
    (h : ∀ p ∈ movemListed mask is k, s.canStore s.dataFc (a + BitVec.ofNat 32 (p.2 * sz.bytes)) sz = true) :
    movemStore sz mask is (a + BitVec.ofNat 32 (k * sz.bytes)) s =
      .ok () ((movemListed mask is k).foldl
        (fun t p => t.store s.dataFc (a + BitVec.ofNat 32 (p.2 * sz.bytes)) sz (lowPart sz (s.rreg p.1))) s) := by
  induction is generalizing k s with
  | nil => rfl
  | cons i is ih =>
    unfold movemStore
    cases hi : mask.getLsbD i.val with
    | false =>
      rw [movemListed_cons_clear hi] at h ⊢
      exact ih k s h
    | true =>
      rw [movemListed_cons_set hi, List.forall_mem_cons] at h
      obtain ⟨first, rest⟩ := h
      rw [if_pos rfl, run_look_bind, run_bind_ok (memWrite_ok first), address_succ,
        ih (k + 1) _ (by simpa using rest), movemListed_cons_set hi]
      simp

/-- The transfers to falling addresses are the stores of the registers named in reverse; the last address is the
result (R168). -/
theorem movemStoreDown_ok {sz : Size} {mask : Word} {a : Long} (is : List (Fin 16)) (k : Nat) (s : State)
    (h : ∀ p ∈ movemListed mask is k, s.canStore s.dataFc (a - BitVec.ofNat 32 ((p.2 + 1) * sz.bytes)) sz = true) :
    movemStoreDown sz mask is (a - BitVec.ofNat 32 (k * sz.bytes)) s =
      .ok (a - BitVec.ofNat 32 ((k + (movemListed mask is k).length) * sz.bytes))
        ((movemListed mask is k).foldl (fun t p =>
          t.store s.dataFc (a - BitVec.ofNat 32 ((p.2 + 1) * sz.bytes)) sz (lowPart sz (s.rreg (Fin.rev p.1)))) s) := by
  induction is generalizing k s with
  | nil => rfl
  | cons i is ih =>
    unfold movemStoreDown
    cases hi : mask.getLsbD i.val with
    | false =>
      rw [movemListed_cons_clear hi] at h ⊢
      exact ih k s h
    | true =>
      rw [movemListed_cons_set hi, List.forall_mem_cons] at h
      obtain ⟨first, rest⟩ := h
      rw [if_pos rfl, run_look_bind, address_pred, run_bind_ok (memWrite_ok first),
        ih (k + 1) _ (by simpa using rest), movemListed_cons_set hi, List.length_cons, Nat.add_right_comm]
      simp [Nat.add_assoc]

/-- Settles O12: the mask, the address, then the transfers from number 0 on. -/
theorem movemStoresRegisters : Obligations.MovemStoresRegisters := by
  intro sz ea s s0 s1 mask a hf ha rs addr hs t
  have kept := ((fetch16_kept hf).mono (by simp)).trans (eaAddr_kept ha)
  have transfers := movemStore_ok (a := a) movemOrder 0 s1 hs
  rw [Nat.zero_mul, BitVec.add_zero] at transfers
  refine ⟨execute_ok ?_, (foldl_store_sr ..).trans kept.sr, ?_⟩
  · rw [run_bind_ok hf, run_bind_ok ha]
    exact transfers
  · simpa using kept.changes.append (changes_foldl_store s1.dataFc (fun p => addr p.2) sz _ rs s1)

/-- Settles O13: the transfers read the registers of before, since the address register is written after them
(decision D11). -/
theorem movemPredecrementStores : Obligations.MovemPredecrementStores := by
  intro sz an s s0 mask hf rs addr hs t
  have kept := fetch16_kept hf
  have transfers := movemStoreDown_ok (a := s0.areg an) movemOrder 0 s0 hs
  rw [Nat.zero_mul, BitVec.sub_zero, Nat.zero_add] at transfers
  refine ⟨execute_ok ?_, ?_, ?_⟩
  · rw [run_bind_ok hf, run_look_bind, run_bind_ok transfers]
    rfl
  · rw [State.setAreg_sr, foldl_store_sr, kept.sr]
  · simpa using (kept.changes.append (changes_foldl_store s0.dataFc (fun p => addr p.2) sz _ rs s0)).append
      (changes_setAreg _ an _)

/-! ### To registers -/

@[simp] theorem State.setRreg_platform (s : State) (i : Fin 16) (v : Long) : (s.setRreg i v).platform = s.platform := by
  unfold State.setRreg
  split <;> simp

@[simp] theorem State.setRreg_resetIn (s : State) (i : Fin 16) (v : Long) : (s.setRreg i v).resetIn = s.resetIn := by
  unfold State.setRreg
  split <;> simp

theorem systemKept_setRreg (s : State) (i : Fin 16) (v : Long) : SystemKept s (s.setRreg i v) := by
  unfold State.setRreg
  split
  · exact (kept_setDreg s _ v).rest
  · exact (kept_setAreg s _ v).rest

theorem State.setDreg_rreg_other (s : State) {n : RegNo} {i : Fin 16} (v : Long) (h : i.val ≠ n.val) :
    (s.setDreg n v).rreg i = s.rreg i := by
  unfold State.rreg
  split
  · exact State.setDreg_dreg_other s v (by simp only [ne_eq, Fin.ext_iff, Fin.val_ofNat]; omega)
  · rw [State.setDreg_areg]

theorem State.setAreg_rreg_other (s : State) {n : RegNo} {i : Fin 16} (v : Long) (h : i.val ≠ 8 + n.val) :
    (s.setAreg n v).rreg i = s.rreg i := by
  unfold State.rreg
  split
  · rw [State.setAreg_dreg]
  · exact State.setAreg_areg_other s v (by simp only [ne_eq, Fin.ext_iff, Fin.val_ofNat]; omega)

theorem State.setRreg_rreg_other (s : State) {i j : Fin 16} (v : Long) (h : j ≠ i) :
    (s.setRreg i v).rreg j = s.rreg j := by
  unfold State.setRreg
  split
  · exact State.setDreg_rreg_other s v (by simp only [Fin.val_ofNat]; omega)
  · exact State.setAreg_rreg_other s v (by simp only [Fin.val_ofNat]; omega)

/-- SR, the system state, memory and the registers in MOVEM's order that meet the condition are unchanged. -/
structure OthersKept (keep : Fin 16 → Prop) (s t : State) : Prop where
  sr : t.sr = s.sr
  system : SystemKept s t
  mem : t.mem = s.mem
  rregs : ∀ i, keep i → t.rreg i = s.rreg i

section OthersKept

variable {keep : Fin 16 → Prop} {s t u : State}

theorem OthersKept.refl (keep : Fin 16 → Prop) (s : State) : OthersKept keep s s :=
  ⟨rfl, SystemKept.refl s, rfl, fun _ _ => rfl⟩

theorem OthersKept.trans (h : OthersKept keep s t) (k : OthersKept keep t u) : OthersKept keep s u :=
  ⟨k.sr.trans h.sr, h.system.trans k.system, k.mem.trans h.mem, fun i hi => (k.rregs i hi).trans (h.rregs i hi)⟩

theorem OthersKept.memoryKept (h : OthersKept keep s t) : MemoryKept [] s t := MemoryKept.of_mem h.mem h.system.platform

/-- The evaluation of an operand that steps no address register keeps every register. -/
theorem OperandKept.others (h : OperandKept [] s t) (keep : Fin 16 → Prop) : OthersKept keep s t where
  sr := h.sr
  system := h.kept.rest
  mem := h.mem
  rregs i _ := by
    unfold State.rreg
    split
    · exact h.dreg _
    · exact h.kept.aregs _ List.not_mem_nil

theorem othersKept_setRreg (s : State) {i : Fin 16} (v : Long) (h : ¬ keep i) : OthersKept keep s (s.setRreg i v) :=
  ⟨State.setRreg_sr s i v, systemKept_setRreg s i v, State.setRreg_mem s i v, fun _ hj =>
    State.setRreg_rreg_other s v fun e => h (e ▸ hj)⟩

theorem othersKept_setAreg (s : State) {n : RegNo} (v : Long) (h : ∀ i, keep i → i.val ≠ 8 + n.val) :
    OthersKept keep s (s.setAreg n v) :=
  ⟨State.setAreg_sr s n v, (kept_setAreg s n v).rest, State.setAreg_mem s n v, fun i hi =>
    State.setAreg_rreg_other s v (h i hi)⟩

theorem othersKept_foldl_setRreg {α : Type} (reg : α → Fin 16) (val : α → Long) {ps : List α} (s : State)
    (h : ∀ p ∈ ps, ¬ keep (reg p)) : OthersKept keep s (ps.foldl (fun t p => t.setRreg (reg p) (val p)) s) :=
  List.foldlRecOn ps _ (OthersKept.refl keep s) fun t ht p hp => ht.trans (othersKept_setRreg t (val p) (h p hp))

end OthersKept

/-- The transfers to registers load each from memory as it was at the start; the address after the last is the result
(R169). -/
theorem movemLoad_ok {fc : BitVec 3} {sz : Size} {mask : Word} {a : Long} (is : List (Fin 16)) (k : Nat) (s : State)
    (h : ∀ p ∈ movemListed mask is k, s.canRead fc (a + BitVec.ofNat 32 (p.2 * sz.bytes)) sz = true) :
    movemLoad fc sz mask is (a + BitVec.ofNat 32 (k * sz.bytes)) s =
      .ok (a + BitVec.ofNat 32 ((k + (movemListed mask is k).length) * sz.bytes))
        ((movemListed mask is k).foldl (fun t p =>
          t.setRreg p.1 (extendOperand sz (s.load fc (a + BitVec.ofNat 32 (p.2 * sz.bytes)) sz))) s) := by
  induction is generalizing k s with
  | nil => rfl
  | cons i is ih =>
    unfold movemLoad
    cases hi : mask.getLsbD i.val with
    | false =>
      rw [movemListed_cons_clear hi] at h ⊢
      exact ih k s h
    | true =>
      rw [movemListed_cons_set hi, List.forall_mem_cons] at h
      obtain ⟨first, rest⟩ := h
      generalize hv : extendOperand sz (s.load fc (a + BitVec.ofNat 32 (k * sz.bytes)) sz) = v
      have platform := State.setRreg_platform s i v
      have readable : ∀ b, (s.setRreg i v).canRead fc b sz = s.canRead fc b sz :=
        fun b => State.canRead_congr platform (State.setRreg_resetIn s i v) fc b sz
      have unchanged : ∀ b, (s.setRreg i v).load fc b sz = s.load fc b sz :=
        fun b => State.load_congr platform (State.setRreg_mem s i v) fc b sz
      rw [if_pos rfl, run_bind_ok (readSized_ok first), run_update_bind, address_succ, hv,
        ih (k + 1) _ (by simpa only [readable] using rest), movemListed_cons_set hi, List.length_cons, Nat.add_right_comm]
      simp only [unchanged, List.foldl_cons, hv, Nat.add_assoc]

/-- MOVEM from a control mode: the mask, the address, then the transfers. -/
theorem exec_movemToRegs_control {sz : Size} {ea : Ea} (hc : ea.isControl = true) (s : State) :
    exec (.movemToRegs sz ea) s = execute (fetch16 >>= fun mask => eaAddr sz ea >>= fun a =>
      look (fun s => s.operandFc ea) >>= fun fc => movemLoad fc sz mask movemOrder a >>= fun _ => pure ()) s := by
  cases ea with
  | post n => simp [Ea.isControl] at hc
  | _ => rfl

/-- Settles O14: the transfers from number 0 on, and what the fetch, the address and each register write leave. -/
theorem movemLoadsRegisters : Obligations.MovemLoadsRegisters := by
  intro sz ea s s0 s1 mask a hf rs addr loaded others
  have transfers : ∀ (u : State) (fc : BitVec 3), (∀ p ∈ rs, u.canRead fc (addr p.2) sz = true) →
      movemLoad fc sz mask movemOrder a u = .ok (addr rs.length) (loaded u fc) := by
    intro u fc hr
    have run := movemLoad_ok (a := a) movemOrder 0 u hr
    rw [Nat.zero_mul, BitVec.add_zero, Nat.zero_add] at run
    exact run
  have loads : ∀ (u : State) (fc : BitVec 3) (keep : Fin 16 → Prop), (∀ i, keep i → mask.getLsbD i.val = false) →
      OthersKept keep u (loaded u fc) := fun u fc keep hk =>
    othersKept_foldl_setRreg _ _ u fun p hp hkeep =>
      Bool.false_ne_true ((hk _ hkeep).symm.trans (mask_of_mem_movemListed hp))
  have fetch := fetch16_kept hf
  constructor
  case left =>
    intro hc ha hr
    have address := (fetch.trans (eaAddr_control_kept hc ha)).others fun i => mask.getLsbD i.val = false
    have kept := address.trans (loads s1 (s1.operandFc ea) _ fun _ hi => hi)
    refine ⟨?_, kept.sr, kept.system, kept.memoryKept, fun i hi _ => kept.rregs i hi⟩
    rw [exec_movemToRegs_control hc]
    refine execute_ok ?_
    rw [run_bind_ok hf, run_bind_ok ha, run_look_bind, run_bind_ok (transfers s1 _ hr), run_pure]
  case right =>
    intro n hn hr t
    have transferred := (fetch.others fun i => mask.getLsbD i.val = false ∧ i.val ≠ 8 + n.val).trans
      (loads s0 s0.dataFc _ fun _ hi => hi.1)
    have kept := transferred.trans (othersKept_setAreg _ (addr rs.length) fun _ hi => hi.2)
    refine ⟨execute_ok ?_, State.setAreg_areg_same _ _ _, kept.sr, kept.system, kept.memoryKept, fun i hm hi =>
      kept.rregs i ⟨hm, hi⟩⟩
    rw [run_bind_ok hf]
    simp only [run_look_bind]
    rw [← hn, run_bind_ok (transfers s0 _ hr), run_update]

/-! ## MOVEP (R175)

The bytes are numbered as MOVEM's registers are; the j-th is at the address a plus 2j. -/

theorem eaAddr_disp_ok {sz : Size} {n : RegNo} {s t : State} {w : Word} (h : fetch16 s = .ok w t) :
    eaAddr sz (.disp n) s = .ok (t.areg n + w.signExtend 32) t := run_bind_ok h

/-- The bytes to memory are byte stores at every second address. -/
theorem movepStore_ok {dn : RegNo} {a : Long} (ks : List Nat) (j : Nat) (s : State)
    (h : ∀ p ∈ ks.zipIdx j, s.canStore s.dataFc (a + BitVec.ofNat 32 (p.2 * 2)) .b = true) :
    movepStore dn ks (a + BitVec.ofNat 32 (j * 2)) s =
      .ok () ((ks.zipIdx j).foldl
        (fun t p => t.store s.dataFc (a + BitVec.ofNat 32 (p.2 * 2)) .b ((s.dreg dn).extractLsb' p.1 8)) s) := by
  induction ks generalizing j s with
  | nil => rfl
  | cons k ks ih =>
    rw [List.zipIdx_cons, List.forall_mem_cons] at h
    obtain ⟨first, rest⟩ := h
    have next := ih (j + 1) (s.store s.dataFc (a + BitVec.ofNat 32 (j * 2)) .b ((s.dreg dn).extractLsb' k 8))
      (by simpa using rest)
    rw [← address_succ] at next
    rw [movepStore, run_look_bind, run_bind_ok (memWrite_ok first)]
    refine next.trans ?_
    simp

/-- Each byte from memory replaces its part of the register. -/
theorem movepLoad_cons_ok {dn : RegNo} {k : Nat} {a : Long} {s : State} (ks : List Nat) (v : Long)
    (h : s.canRead s.dataFc a .b = true) :
    movepLoad dn (k :: ks) a (s.setDreg dn v) =
      movepLoad dn ks (a + 2) (s.setDreg dn (insertByte k v (s.byteAt s.dataFc a))) := by
  have read : memRead .b a (s.setDreg dn v) = .ok (s.byteAt s.dataFc a) (s.setDreg dn v) :=
    memRead_ok (s := s.setDreg dn v) (sz := .b) h
  rw [movepLoad, run_bind_ok read, run_update_bind, State.setDreg_dreg_same, State.setDreg_setDreg]

theorem insertByte_getLsbD (k : Nat) (old : Long) (b : Byte) {i : Nat} (hi : i < 32) :
    (insertByte k old b).getLsbD i = if k ≤ i ∧ i < k + 8 then b.getLsbD (i - k) else old.getLsbD i := by
  have ones : (0xFF : Long).getLsbD (i - k) = decide (i - k < 8) := by
    rw [show (0xFF : Long) = (BitVec.allOnes 8).setWidth 32 from rfl, BitVec.getLsbD_setWidth, BitVec.getLsbD_allOnes]
    simp only [Bool.and_eq_right_iff_imp, decide_eq_true_eq]
    omega
  simp only [insertByte, BitVec.getLsbD_or, BitVec.getLsbD_and, BitVec.getLsbD_not, BitVec.getLsbD_shiftLeft, ones, hi,
    BitVec.getLsbD_setWidth, decide_true, Bool.true_and]
  by_cases hk : i < k
  · simp [hk, Nat.not_le.mpr hk]
  · by_cases h8 : i - k < 8
    · simp [hk, h8, show k ≤ i ∧ i < k + 8 by omega, show i - k < 32 by omega]
    · simp [hk, h8, show ¬ (k ≤ i ∧ i < k + 8) by omega, BitVec.getLsbD_of_ge b (i - k) (by omega)]

/-! Each bit of the register lies in one of the bytes inserted, or above them; the bounds of the bytes decide in which. -/

theorem insertByte_word (old : Long) (b0 b1 : Byte) :
    insertByte 0 (insertByte 8 old b0) b1 = old.extractLsb' 16 16 ++ (b0 ++ b1) := by
  apply BitVec.eq_of_getLsbD_eq
  intro i hi
  simp only [insertByte_getLsbD _ _ _ hi, BitVec.getLsbD_append, BitVec.getLsbD_extractLsb']
  grind

theorem insertByte_long (old : Long) (b0 b1 b2 b3 : Byte) :
    insertByte 0 (insertByte 8 (insertByte 16 (insertByte 24 old b0) b1) b2) b3 = (b0 ++ b1) ++ (b2 ++ b3) := by
  apply BitVec.eq_of_getLsbD_eq
  intro i hi
  simp only [insertByte_getLsbD _ _ _ hi, BitVec.getLsbD_append]
  grind

/-- Settles O15: the address is that of the displacement mode; each direction is its list of bytes, two or four. -/
theorem movepAlternateBytes : Obligations.MovepAlternateBytes := by
  intro dn an s s1 w hf a fc r put
  have fetch := fetch16_kept hf
  have address : eaAddr .b (.disp an) s = .ok a s1 := eaAddr_disp_ok hf
  have load : ∀ {sz : Size} {v : Long}, movepLoad dn (movepBytes sz) a (s1.setDreg dn r) = .ok () (s1.setDreg dn v) →
      exec (.movep false sz dn an) s = .next (s1.setDreg dn v) ∧ Changes [dn] [] [] s (s1.setDreg dn v) := by
    intro sz v h
    rw [s1.setDreg_dreg_self] at h
    exact ⟨execute_ok (by rw [run_bind_ok address]; exact h), fetch.changes.append (changes_setDreg s1 dn v)⟩
  have store : ∀ sz : Size, (∀ p ∈ (movepBytes sz).zipIdx, s1.canStore fc (a + BitVec.ofNat 32 (p.2 * 2)) .b = true) →
      let t := (movepBytes sz).zipIdx.foldl (fun t p => put t (BitVec.ofNat 32 (p.2 * 2)) p.1) s1
      exec (.movep true sz dn an) s = .next t ∧ t.sr = s.sr ∧
        Changes [] [] ((movepBytes sz).zipIdx.flatMap fun p => s1.cells fc (a + BitVec.ofNat 32 (p.2 * 2)) .b) s t := by
    intro sz h t
    have run := movepStore_ok (dn := dn) (a := a) (movepBytes sz) 0 s1 h
    rw [Nat.zero_mul, BitVec.add_zero] at run
    refine ⟨execute_ok (by rw [run_bind_ok address]; exact run), (foldl_store_sr ..).trans fetch.sr, ?_⟩
    exact fetch.changes.append (changes_foldl_store fc (fun p : Nat × Nat => a + BitVec.ofNat 32 (p.2 * 2)) .b _ _ s1)
  have a4 : a + 2 + 2 = a + 4 := BitVec.add_assoc a 2 2
  have a6 : a + 4 + 2 = a + 6 := BitVec.add_assoc a 4 2
  refine ⟨fun r0 r2 => load (sz := .w) ?_, fun r0 r2 r4 r6 => load (sz := .l) ?_, fun w0 w2 => ?_,
    fun w0 w2 w4 w6 => ?_⟩
  · rw [movepBytes, movepLoad_cons_ok _ _ r0, movepLoad_cons_ok _ _ r2, insertByte_word]
    · rfl
    · nofun
  · rw [movepBytes, movepLoad_cons_ok _ _ r0, movepLoad_cons_ok _ _ r2, a4, movepLoad_cons_ok _ _ r4, a6,
      movepLoad_cons_ok _ _ r6, insertByte_long]
    rfl
  · simpa [movepBytes] using store .w (by simpa [movepBytes] using ⟨w0, w2⟩)
  · simpa [movepBytes] using store .l (by simpa [movepBytes] using ⟨w0, w2, w4, w6⟩)

end Sys2Proof.Machine

/-! # Integer arithmetic and logic (41_integer_arithmetic.md, 42_logical.md; 47_system_control.md R333)

The instructions have a few shapes: an operand into a data register, a register or memory operand modified, a pair of
operands, a comparison. Each shape has one lemma that says when its computation answers, and with which state; a result
with its flags always answers. -/

namespace Sys2Proof.Machine

/-! ## Flags and address registers seen through the views of the state -/

@[simp] theorem State.setCcr_canStore (s : State) (f : Ccr) (fc : BitVec 3) (a : Long) (sz : Size) :
    (s.setCcr f).canStore fc a sz = s.canStore fc a sz := State.canStore_congr rfl rfl fc a sz

@[simp] theorem State.setCcr_cells (s : State) (f : Ccr) (fc : BitVec 3) (a : Long) (sz : Size) :
    (s.setCcr f).cells fc a sz = s.cells fc a sz := State.cells_congr rfl fc a sz

section SetAreg

variable (s : State) (n : RegNo) (v : Long) (fc : BitVec 3) (a : Long) (sz : Size)

@[simp] theorem State.setAreg_canStore : (s.setAreg n v).canStore fc a sz = s.canStore fc a sz :=
  State.canStore_congr (by simp) (by simp) fc a sz

@[simp] theorem State.setAreg_cells : (s.setAreg n v).cells fc a sz = s.cells fc a sz :=
  State.cells_congr (by simp) fc a sz

end SetAreg

/-- A memory operand read after the evaluation of operands is that of before. -/
theorem OperandKept.memRead_ok {as : List RegNo} {s t : State} {sz : Size} {a : Long} (k : OperandKept as s t)
    (hq : t.resetIn = s.resetIn) (h : s.canRead s.dataFc a sz = true) :
    memRead sz a t = .ok (s.load s.dataFc a sz) t := by
  have fc : t.dataFc = s.dataFc := State.dataFc_congr k.sr
  have platform := k.kept.rest.platform
  rw [Machine.memRead_ok, fc, State.load_congr platform k.mem]
  rwa [fc, State.canRead_congr platform hq]

/-! ## The frames of the shapes -/

section Frames

variable {as : List RegNo} {s s1 : State}

theorem OperandKept.changes_setCcr (h : OperandKept as s s1) (f : Ccr) : Changes [] as [] s (s1.setCcr f) := by
  simpa using h.changes.append (Machine.changes_setCcr s1 f)

theorem OperandKept.changes_setDlow (h : OperandKept as s s1) (f : Ccr) (n : RegNo) (sz : Size) (r : BitVec sz.bits) :
    Changes [n] as [] s ((s1.setCcr f).setDlow n sz r) := by
  simpa using (h.changes_setCcr f).append (Machine.changes_setDlow _ n sz r)

theorem OperandKept.changes_setDreg (h : OperandKept as s s1) (f : Ccr) (n : RegNo) (r : Long) :
    Changes [n] as [] s ((s1.setCcr f).setDreg n r) := by
  simpa using (h.changes_setCcr f).append (Machine.changes_setDreg _ n r)

theorem OperandKept.changes_store (h : OperandKept as s s1) (f : Ccr) (fc : BitVec 3) (a : Long) (sz : Size)
    (r : BitVec sz.bits) : Changes [] as (s1.cells fc a sz) s ((s1.setCcr f).store fc a sz r) := by
  simpa using (h.changes_setCcr f).append (Machine.changes_store _ fc a sz r)

end Frames

/-! ## An operand into a data register (30_encoding.md R132) -/

theorem eaToDn_ok {sz : Size} {dn : RegNo} {ea : Ea} {f : BitVec sz.bits → BitVec sz.bits → M (BitVec sz.bits)}
    {s s1 s2 : State} {v r : BitVec sz.bits} (hv : readEa sz ea s = .ok v s1)
    (hf : f (lowPart sz (s1.dreg dn)) v s1 = .ok r s2) : eaToDn sz dn ea f s = .ok () (s2.setDlow dn sz r) := by
  unfold eaToDn
  rw [run_bind_ok hv, run_look_bind, run_bind_ok hf, run_update]

/-- Settles O19: the operand is read, and the result with its flags always answers. -/
theorem toRegisterResult : Obligations.ToRegisterResult := by
  intro sz dn ea s s1 v hv d sum dif t
  exact ⟨execute_ok (eaToDn_ok hv rfl), execute_ok (eaToDn_ok hv rfl), execute_ok (eaToDn_ok hv rfl),
    execute_ok (eaToDn_ok hv rfl), fun f r => (readEa_kept hv).changes_setDlow f dn sz r⟩

/-! ## An operand modified (30_encoding.md R128) -/

/-- A memory operand replaced by a result, in a state that has changed in its flags only. -/
theorem modifyEa_memory_flags {s s1 : State} {sz : Size} {ea : Ea} {a : Long}
    {f : BitVec sz.bits → M (BitVec sz.bits)} {r : BitVec sz.bits} {c : Ccr} (hm : ea.isMemAlterable = true)
    (ha : eaAddr sz ea s = .ok a s1) (hr : s1.canRead s1.dataFc a sz = true) (hs : s1.canStore s1.dataFc a sz = true)
    (hf : f (s1.load s1.dataFc a sz) s1 = .ok r (s1.setCcr c)) :
    modifyEa sz ea f s = .ok () ((s1.setCcr c).store s1.dataFc a sz r) := by
  rw [modifyEa_memory hm ha hr hf (by simpa using hs), State.setCcr_dataFc]

/-- An instruction with an immediate is the modification of its operand, in the state that the immediate leaves. -/
theorem immToEa_ok {sz : Size} {ea : Ea} {f : BitVec sz.bits → BitVec sz.bits → M (BitVec sz.bits)} {s s0 t : State}
    {v : BitVec sz.bits} (hv : fetchImm sz s = .ok v s0) (hm : modifyEa sz ea (fun d => f d v) s0 = .ok () t) :
    immToEa sz ea f s = .ok () t := (run_bind_ok hv).trans hm

/-- Settles O21: the immediate, then the operand in a register or in memory. -/
theorem immediateResult : Obligations.ImmediateResult := by
  intro sz s s0 v hv
  have immediate := fetchImm_kept hv
  constructor
  case left =>
    intro n d sum dif t
    have run : ∀ {g : BitVec sz.bits → BitVec sz.bits → M (BitVec sz.bits)} {c : Ccr} {r : BitVec sz.bits},
        g d v s0 = .ok r (s0.setCcr c) → execute (immToEa sz (.dn n) g) s = .next (t c r) := fun hg =>
      execute_ok (immToEa_ok hv (modifyEa_dn hg))
    exact ⟨run rfl, run rfl, run rfl, run rfl, run rfl, fun f r => immediate.changes_setDlow f n sz r⟩
  case right =>
    intro ea s1 a hm ha hr hs d sum dif t
    have run : ∀ {g : BitVec sz.bits → BitVec sz.bits → M (BitVec sz.bits)} {c : Ccr} {r : BitVec sz.bits},
        g d v s1 = .ok r (s1.setCcr c) → execute (immToEa sz ea g) s = .next (t c r) := fun hg =>
      execute_ok (immToEa_ok hv (modifyEa_memory_flags hm ha hr hs hg))
    have operand := (immediate.mono (by simp)).trans (eaAddr_kept ha)
    exact ⟨run rfl, run rfl, run rfl, run rfl, run rfl, fun f r => operand.changes_store f _ a sz r⟩

/-- Settles O24: the operand in a register or in memory. -/
theorem unaryResult : Obligations.UnaryResult := by
  constructor
  case left =>
    intro sz n s d neg negx t
    exact ⟨execute_ok (modifyEa_dn (f := subResult 0) rfl), execute_ok (modifyEa_dn (f := subxResult 0) rfl),
      execute_ok (modifyEa_dn (f := fun d => logicResult (~~~d)) rfl),
      fun f r => (OperandKept.refl [] s).changes_setDlow f n sz r⟩
  case right =>
    intro sz ea s s1 a hm ha hr hs d neg negx t
    have run : ∀ {g : BitVec sz.bits → M (BitVec sz.bits)} {c : Ccr} {r : BitVec sz.bits},
        g d s1 = .ok r (s1.setCcr c) → execute (modifyEa sz ea g) s = .next (t c r) := fun hg =>
      execute_ok (modifyEa_memory_flags hm ha hr hs hg)
    exact ⟨run rfl, run rfl, run rfl, fun f r => (eaAddr_kept ha).changes_store f _ a sz r⟩

/-! ## The pair forms (30_encoding.md R133) -/

/-- The registers form: the result goes to the first register. -/
theorem pairOp_regs_ok {sz : Size} {x y : RegNo} {f : BitVec sz.bits → BitVec sz.bits → M (BitVec sz.bits)}
    {s s1 : State} {r : BitVec sz.bits} (hf : f (lowPart sz (s.dreg x)) (lowPart sz (s.dreg y)) s = .ok r s1) :
    pairOp sz .regs x y f s = .ok () (s1.setDlow x sz r) := by
  simp only [pairOp, run_look_bind]
  rw [run_bind_ok hf, run_update]

/-- The memory form: the source's address and operand, the destination's, the result. -/
theorem pairOp_mem_ok {sz : Size} {x y : RegNo} {f : BitVec sz.bits → BitVec sz.bits → M (BitVec sz.bits)}
    {s s1 s2 s3 : State} {ax ay : Long} {v d r : BitVec sz.bits} (hy : eaAddr sz (.pre y) s = .ok ay s1)
    (hv : memRead sz ay s1 = .ok v s1) (hx : eaAddr sz (.pre x) s1 = .ok ax s2) (hd : memRead sz ax s2 = .ok d s2)
    (hf : f d v s2 = .ok r s3) (hs : s3.canStore s3.dataFc ax sz = true) :
    pairOp sz .mem x y f s = .ok () (s3.store s3.dataFc ax sz r) := by
  simp only [pairOp]
  rw [run_bind_ok hy, run_bind_ok hv, run_bind_ok hx, run_bind_ok hd, run_bind_ok hf, memWrite_ok hs]

/-- Settles O23: both registers have stepped down when the result with X answers, also where they are the same one. -/
theorem extendedResult : Obligations.ExtendedResult := by
  constructor
  case left =>
    intro sz x y s sum dif t
    exact ⟨execute_ok (pairOp_regs_ok (f := addxResult) rfl), execute_ok (pairOp_regs_ok (f := subxResult) rfl),
      fun f r => (OperandKept.refl [] s).changes_setDlow f x sz r⟩
  case right =>
    intro sz x y s s1 s2 ay ax fc hy hx hs sum dif t
    have source : OperandKept [x, y] s s1 := (operandKept_setAreg s y _).mono (by simp)
    have both : OperandKept [x, y] s s2 := source.trans ((operandKept_setAreg s1 x _).mono (by simp))
    have run : ∀ {g : BitVec sz.bits → BitVec sz.bits → M (BitVec sz.bits)} {c : Ccr} {r : BitVec sz.bits},
        g (s.load fc ax sz) (s.load fc ay sz) s2 = .ok r (s2.setCcr c) →
        execute (pairOp sz .mem x y g) s = .next (t c r) := by
      intro g c r hg
      have read := pairOp_mem_ok (ax := ax) (ay := ay) rfl (source.memRead_ok (by simp [s1]) hy) rfl
        (both.memRead_ok (by simp [s2, s1]) hx) hg (by simpa [s2, s1] using hs)
      rw [execute_ok read]
      simp [t, s2, s1, fc]
    refine ⟨run ?_, run ?_, fun f r => ?_⟩
    · rw [addxResult_run, both.ccr]
    · rw [subxResult_run, both.ccr]
    · simpa [s2, s1] using both.changes_store f fc ax sz r

/-! ## Operands that are written and not read (R204, R239, 47_system_control.md R333; log 23) -/

theorem writeEa_memory_frame {s s1 : State} {sz : Size} {ea : Ea} {a : Long} (v : BitVec sz.bits)
    (hm : ea.isMemAlterable = true) (ha : eaAddr sz ea s = .ok a s1) (hs : s1.canStore s1.dataFc a sz = true) :
    let t := s1.store s1.dataFc a sz v
    writeEa sz ea v s = .ok () t ∧ Changes [] ea.updates (s1.cells s1.dataFc a sz) s t ∧ t.sr = s.sr := by
  have kept := eaAddr_kept ha
  refine ⟨writeEa_memory hm ha hs, ?_, by rw [State.store_sr, kept.sr]⟩
  simpa using kept.changes.append (changes_store s1 s1.dataFc a sz v)

/-- Settles O25: one write, in a register or in memory; CLR's flags come before it. -/
theorem writeOnlyResult : Obligations.WriteOnlyResult := by
  intro s cleared truth
  have flags : Changes [] [] [] s cleared := changes_setCcr s _
  refine ⟨fun sz n => ⟨rfl, flags.append (changes_setDlow cleared n sz 0)⟩, fun c n => ⟨rfl, changes_setDlow s n .b _⟩,
    fun n => ⟨rfl, changes_setDlow s n .w s.sr⟩, ?clr, ?scc, ?sr⟩
  case clr =>
    intro sz ea s1 a hm ha hs
    obtain ⟨run, frame, _⟩ := writeEa_memory_frame 0 hm ha hs
    exact ⟨execute_ok run, by simpa using flags.append frame⟩
  case scc =>
    intro c ea s1 a hm ha hs t
    obtain ⟨run, frame, sr⟩ := writeEa_memory_frame (truth c) hm ha hs
    exact ⟨execute_ok run, frame, sr⟩
  case sr =>
    intro ea s1 a hm ha hs t
    obtain ⟨run, frame, sr⟩ := writeEa_memory_frame (sz := .w) s.sr hm ha hs
    exact ⟨execute_ok run, frame, sr⟩

/-! ## Comparisons (R205 to R208, 42_logical.md R238) -/

/-- A postincrement operand read from memory as another state had it, whose frame the step up keeps. -/
theorem readMemEa_post_ok {as : List RegNo} {s0 s : State} {sz : Size} {n : RegNo}
    (k : OperandKept as s0 (s.setAreg n (s.areg n + stepOf sz n))) (hq : s.resetIn = s0.resetIn)
    (h : s0.canRead s0.dataFc (s.areg n) sz = true) :
    readMemEa sz (.post n) s = .ok (s0.load s0.dataFc (s.areg n) sz) (s.setAreg n (s.areg n + stepOf sz n)) :=
  k.memRead_ok (by simpa using hq) h

/-- Settles O26: the operands are read, and the flags are set in the state that the reads leave. (`compareResult` is the
model's name for setting them.) -/
theorem comparisonResult : Obligations.CompareResult := by
  refine ⟨?_, ?_, ?_⟩
  · intro sz n ea s s1 v hv
    exact ⟨execute_ok (run_bind_ok hv), execute_ok (run_bind_ok hv), execute_ok (run_bind_ok hv),
      (readEa_kept hv).changes_setCcr⟩
  · intro sz ea s s0 s1 v d hv hd
    have operands := ((fetchImm_kept hv).mono (by simp)).trans (readEa_kept hd)
    exact ⟨execute_ok ((run_bind_ok hv).trans (run_bind_ok hd)), operands.changes_setCcr⟩
  · intro sz x y s s1 s2 hy hx o
    have source : OperandKept [x, y] s s1 := (operandKept_setAreg s y _).mono (by simp)
    have both : OperandKept [x, y] s s2 := source.trans ((operandKept_setAreg s1 x _).mono (by simp))
    have first := readMemEa_post_ok source rfl hy
    have second := readMemEa_post_ok both (by simp [s1]) hx
    refine ⟨execute_ok ?_, both.changes_setCcr⟩
    rw [run_bind_ok first, run_bind_ok second, compareResult_run, both.ccr]

/-! ## Multiplication (R210, R211) -/

/-- The unsigned product of two words needs no more than 32 bits. -/
theorem mulUnsigned_toNat (d v : Word) : (mulUnsigned d v).toNat = d.toNat * v.toNat := by
  have bound : d.toNat * v.toNat < 2 ^ 16 * 2 ^ 16 := Nat.mul_lt_mul'' d.isLt v.isLt
  rw [mulUnsigned, BitVec.toNat_ofNat, Nat.mod_eq_of_lt (by omega)]

/-- The signed product of two words needs no more than 32 bits. -/
theorem mulSigned_toInt (d v : Word) : (mulSigned d v).toInt = d.toInt * v.toInt := by
  have upper : d.toInt * v.toInt ≤ 2 ^ 30 := BitVec.toInt_mul_toInt_le
  have lower : -(2 ^ 30) ≤ d.toInt * v.toInt := BitVec.le_toInt_mul_toInt
  exact BitVec.toInt_ofInt_eq_self (by decide) (by omega) (by omega)

/-- Settles O27: the products are those of the exact integers. -/
theorem multiplyResult : Obligations.MultiplyResult := by
  intro dn ea s s1 v hv
  let d : Word := lowPart .w (s1.dreg dn)
  exact ⟨mulUnsigned d v, mulSigned d v, mulUnsigned_toNat d v, mulSigned_toInt d v, execute_ok (run_bind_ok hv),
    execute_ok (run_bind_ok hv), fun f r => (readEa_kept hv).changes_setDreg f dn r⟩

/-! ## Division (R212 to R215, 60_exceptions.md R382) -/

section Divide

variable {dn : RegNo} {ea : Ea} {s s1 : State} {v : Word} {quotient : Long → Word → Option (Word × Word)}

/-- A quotient that fits goes to the register with its remainder. -/
theorem divide_fits {q r : Word} (hv : readEa .w ea s = .ok v s1) (h0 : v ≠ 0)
    (hq : quotient (s1.dreg dn) v = some (q, r)) :
    divide dn ea quotient s = .ok () ((s1.setCcr (moveFlags s1.ccr q)).setDreg dn (r ++ q)) := by
  unfold divide
  rw [run_bind_ok hv, if_neg h0, run_look_bind, hq]
  rfl

/-- A quotient that does not fit leaves the register. -/
theorem divide_overflows (hv : readEa .w ea s = .ok v s1) (h0 : v ≠ 0) (hq : quotient (s1.dreg dn) v = none) :
    divide dn ea quotient s =
      .ok () ({ s1 with draws := s1.draws + 1 }.setCcr (divOverflowFlags (Config.free s1.draws) s1.ccr)) := by
  unfold divide
  rw [run_bind_ok hv, if_neg h0, run_look_bind, hq]
  rfl

end Divide

/-- The unsigned quotient fits: it and the remainder are those of the integers. -/
theorem divUnsigned_fits {d : Long} {v : Word} (h : d.toNat / v.toNat ≤ 0xFFFF) (h0 : v ≠ 0) :
    ∃ q r : Word, divUnsigned d v = some (q, r) ∧ q.toNat = d.toNat / v.toNat ∧ r.toNat = d.toNat % v.toNat := by
  have positive : 0 < v.toNat := Nat.pos_of_ne_zero fun h => h0 (BitVec.eq_of_toNat_eq h)
  have remainder : d.toNat % v.toNat < 2 ^ 16 := (Nat.mod_lt _ positive).trans v.isLt
  refine ⟨_, _, if_pos h, ?_, ?_⟩
  · rw [BitVec.toNat_ofNat, Nat.mod_eq_of_lt (by omega)]
  · rw [BitVec.toNat_ofNat, Nat.mod_eq_of_lt remainder]

/-- The signed quotient fits: it and the remainder, which is smaller than the divisor, are those of the truncating
division (decision D7). -/
theorem divSigned_fits {d : Long} {v : Word} (hl : -32768 ≤ d.toInt.tdiv v.toInt) (hu : d.toInt.tdiv v.toInt ≤ 32767)
    (h0 : v ≠ 0) :
    ∃ q r : Word, divSigned d v = some (q, r) ∧ q.toInt = d.toInt.tdiv v.toInt ∧ r.toInt = d.toInt.tmod v.toInt := by
  have inside : outsideSigned 16 (d.toInt.tdiv v.toInt) = false := by
    simp only [outsideSigned, Bool.or_eq_false_iff, decide_eq_false_iff_not]
    omega
  have nonzero : v.toInt ≠ 0 := fun h => h0 (BitVec.eq_of_toInt_eq h)
  have small : (d.toInt.tmod v.toInt).natAbs < v.toInt.natAbs := by
    rw [Int.natAbs_tmod]
    exact Nat.mod_lt _ (Int.natAbs_pos.mpr nonzero)
  have lower : -(2 ^ 15) ≤ v.toInt := BitVec.le_toInt v
  have upper : v.toInt < 2 ^ 15 := BitVec.toInt_lt
  refine ⟨BitVec.ofInt 16 (d.toInt.tdiv v.toInt), BitVec.ofInt 16 (d.toInt.tmod v.toInt), ?_, ?_, ?_⟩
  · rw [divSigned, inside]
    rfl
  · exact BitVec.toInt_ofInt_eq_self (by decide) (by omega) (by omega)
  · exact BitVec.toInt_ofInt_eq_self (by decide) (by omega) (by omega)

/-- The signed quotient does not fit. -/
theorem divSigned_overflows {d : Long} {v : Word}
    (h : d.toInt.tdiv v.toInt < -32768 ∨ 32767 < d.toInt.tdiv v.toInt) : divSigned d v = none :=
  if_pos <| by
    simp only [outsideSigned, Bool.or_eq_true, decide_eq_true_eq]
    omega

/-- Settles O28: the quotient fits or not, as the integers do. -/
theorem divideResult : Obligations.DivideResult := by
  intro dn ea s s1 v hv h0 d finished overflowed
  have read := readEa_kept hv
  refine ⟨fun fits => ?_, fun large => ?_, fun lower upper => ?_, fun large => ?_,
    fun q r => read.changes_setDreg _ dn _, fun n z => ?_⟩
  · obtain ⟨q, r, hq, quotient, remainder⟩ := divUnsigned_fits fits h0
    exact ⟨q, r, quotient, remainder, execute_ok (divide_fits hv h0 hq)⟩
  · exact ⟨_, _, execute_ok (divide_overflows hv h0 (if_neg (Nat.not_le.mpr large)))⟩
  · obtain ⟨q, r, hq, quotient, remainder⟩ := divSigned_fits lower upper h0
    exact ⟨q, r, quotient, remainder, execute_ok (divide_fits hv h0 hq)⟩
  · exact ⟨_, _, execute_ok (divide_overflows hv h0 (divSigned_overflows large))⟩
  · simpa using (read.changes.append (changes_draw s1)).append (changes_setCcr _ _)

theorem State.canEnter_congr {s t : State} (hp : t.platform = s.platform) (hr : t.resetIn = s.resetIn)
    (hs : t.ssp = s.ssp) (n : Byte) : t.canEnter n = s.canEnter n := by
  simp only [State.canEnter, hs, State.canStore_congr hp hr, State.canRead_congr hp hr]

/-- The entry of an exception writes no data register. -/
theorem State.entered_d (s : State) (n : Byte) (pc : Long) (level : Option (BitVec 3)) :
    (s.entered n pc level).d = s.d := by
  simp [State.entered, State.framed]

theorem OperandKept.d {as : List RegNo} {s t : State} (h : OperandKept as s t) : t.d = s.d :=
  Vector.ext fun i hi => h.dreg ⟨i, hi⟩

/-- A zero divisor traps, whichever the division. -/
theorem divide_byZero {dn : RegNo} {ea : Ea} {s s1 : State} (quotient : Long → Word → Option (Word × Word))
    (hv : readEa .w ea s = .ok 0 s1) (hc : s1.canEnter 5 = true) :
    divide dn ea quotient s =
      .ok () (({ s1 with draws := s1.draws + 1 }.setCcr (divZeroFlags (Config.free s1.draws) s1.ccr)).entered 5 s1.pc
        none) := by
  unfold divide
  rw [run_bind_ok hv, if_pos rfl, run_draw_bind, run_setFlags_bind, raiseTrap_ok]
  · rfl
  · exact (State.canEnter_congr rfl rfl rfl 5).trans hc

/-- Settles O29: the operand's read and the entry change no data register. -/
theorem divideByZeroTraps : Obligations.DivideByZeroTraps := by
  intro dn ea s s1 hv hc
  refine ⟨_, _, _, execute_ok (divide_byZero divUnsigned hv hc), execute_ok (divide_byZero divSigned hv hc), ?_⟩
  rw [State.entered_d]
  exact (readEa_kept hv).d

/-! ## Carry and overflow by the top bits (R190)

Over the integers, for every width w + 1: a top bit says whether the value is 2^w or more, the signed value is smaller
by 2^(w+1) where it is set, and the result differs by 2^(w+1) from the exact sum or difference where that one carries
or borrows. With these the formulas are statements of linear arithmetic over 2^w. -/

section CarryOverflow

variable {w : Nat}

theorem toNat_lt_double (a : BitVec (w + 1)) : (a.toNat : Int) < 2 * 2 ^ w := by
  exact_mod_cast Nat.pow_succ' ▸ a.isLt

theorem msb_iff_le_toNat (a : BitVec (w + 1)) : a.msb = true ↔ (2 ^ w : Int) ≤ a.toNat := by
  rw [BitVec.msb_eq_decide, decide_eq_true_eq, Nat.add_sub_cancel]
  norm_cast

theorem not_msb_iff_toNat_lt (a : BitVec (w + 1)) : (!a.msb) = true ↔ (a.toNat : Int) < 2 ^ w := by
  rw [Bool.not_eq_true', ← Bool.not_eq_true, msb_iff_le_toNat, not_le]

theorem toInt_eq_ite_top (a : BitVec (w + 1)) :
    a.toInt = if (2 ^ w : Int) ≤ a.toNat then (a.toNat : Int) - 2 * 2 ^ w else a.toNat := by
  rw [BitVec.toInt_eq_msb_cond, if_congr (msb_iff_le_toNat a) rfl rfl]
  push_cast [pow_succ']
  rfl

theorem carryIn_bounds (x : Bool) : (0 : Int) ≤ carryIn x ∧ (carryIn x : Int) ≤ 1 := by cases x <;> decide

section Sum

variable (d v : BitVec (w + 1)) (x : Bool)

theorem aluAdd_c_iff : (aluAdd d v x).c = true ↔ (2 * 2 ^ w : Int) ≤ d.toNat + v.toNat + carryIn x := by
  simp only [aluAdd, decide_eq_true_eq, pow_succ']
  norm_cast

theorem aluAdd_v_iff : (aluAdd d v x).v = true ↔
    d.toInt + v.toInt + carryIn x < -2 ^ w ∨ 2 ^ w - 1 < d.toInt + v.toInt + carryIn x := by
  simp only [aluAdd, outsideSigned, Bool.or_eq_true, decide_eq_true_eq, Nat.add_sub_cancel]

/-- The sum is exact but for the carry. -/
theorem aluAdd_r_toNat : ((aluAdd d v x).r.toNat : Int) = d.toNat + v.toNat + carryIn x -
    if (2 * 2 ^ w : Int) ≤ d.toNat + v.toNat + carryIn x then 2 * 2 ^ w else 0 := by
  have hd := toNat_lt_double d
  have hv := toNat_lt_double v
  have hx := carryIn_bounds x
  simp only [aluAdd, BitVec.toNat_ofNat]
  push_cast [pow_succ']
  split
  case isTrue carry => rw [← Int.sub_emod_right, Int.emod_eq_of_lt (by omega) (by omega)]
  case isFalse carry => rw [Int.emod_eq_of_lt (by omega) (by omega), sub_zero]

theorem aluSub_c_iff : (aluSub d v x).c = true ↔ (d.toNat - v.toNat - carryIn x : Int) < 0 := decide_eq_true_iff

theorem aluSub_v_iff : (aluSub d v x).v = true ↔
    d.toInt - v.toInt - carryIn x < -2 ^ w ∨ 2 ^ w - 1 < d.toInt - v.toInt - carryIn x := by
  simp only [aluSub, outsideSigned, Bool.or_eq_true, decide_eq_true_eq, Nat.add_sub_cancel]

/-- The difference is exact but for the borrow. -/
theorem aluSub_r_toNat : ((aluSub d v x).r.toNat : Int) = d.toNat - v.toNat - carryIn x +
    if (d.toNat - v.toNat - carryIn x : Int) < 0 then 2 * 2 ^ w else 0 := by
  have hd := toNat_lt_double d
  have hv := toNat_lt_double v
  have hx := carryIn_bounds x
  have modulus : ((2 ^ (w + 1) : Nat) : Int) = 2 * 2 ^ w := by push_cast [pow_succ']; rfl
  rw [aluSub, BitVec.toNat_ofInt, modulus, Int.toNat_of_nonneg (Int.emod_nonneg _ (by positivity))]
  split
  case isTrue borrow => rw [← Int.add_emod_right, Int.emod_eq_of_lt (by omega) (by omega)]
  case isFalse borrow => rw [Int.emod_eq_of_lt (by omega) (by omega), add_zero]

theorem aluAdd_overflow_carry :
    (aluAdd d v x).v = ((v.msb && d.msb && !(aluAdd d v x).r.msb) || (!v.msb && !d.msb && (aluAdd d v x).r.msb)) ∧
    (aluAdd d v x).c = ((v.msb && d.msb) || (!(aluAdd d v x).r.msb && d.msb) || (v.msb && !(aluAdd d v x).r.msb)) := by
  have hd := toNat_lt_double d
  have hv := toNat_lt_double v
  have hx := carryIn_bounds x
  have hr := aluAdd_r_toNat d v x
  constructor <;> rw [Bool.eq_iff_iff]
  · rw [aluAdd_v_iff, toInt_eq_ite_top d, toInt_eq_ite_top v]
    simp only [Bool.or_eq_true, Bool.and_eq_true, msb_iff_le_toNat, not_msb_iff_toNat_lt]
    omega
  · rw [aluAdd_c_iff]
    simp only [Bool.or_eq_true, Bool.and_eq_true, msb_iff_le_toNat, not_msb_iff_toNat_lt]
    omega

theorem aluSub_overflow_borrow :
    (aluSub d v x).v = ((!v.msb && d.msb && !(aluSub d v x).r.msb) || (v.msb && !d.msb && (aluSub d v x).r.msb)) ∧
    (aluSub d v x).c = ((v.msb && !d.msb) || ((aluSub d v x).r.msb && !d.msb) || (v.msb && (aluSub d v x).r.msb)) := by
  have hd := toNat_lt_double d
  have hv := toNat_lt_double v
  have hx := carryIn_bounds x
  have hr := aluSub_r_toNat d v x
  constructor <;> rw [Bool.eq_iff_iff]
  · rw [aluSub_v_iff, toInt_eq_ite_top d, toInt_eq_ite_top v]
    simp only [Bool.or_eq_true, Bool.and_eq_true, msb_iff_le_toNat, not_msb_iff_toNat_lt]
    omega
  · rw [aluSub_c_iff]
    simp only [Bool.or_eq_true, Bool.and_eq_true, msb_iff_le_toNat, not_msb_iff_toNat_lt]
    omega

end Sum

end CarryOverflow

theorem Size.bits_eq_succ (sz : Size) : ∃ w, sz.bits = w + 1 := by
  cases sz with
  | b => exact ⟨7, rfl⟩
  | w => exact ⟨15, rfl⟩
  | l => exact ⟨31, rfl⟩

/-- Settles O30: each size is one of the widths that the formulas hold for. -/
theorem carryOverflowFormulas : Obligations.CarryOverflowFormulas := by
  intro sz
  obtain ⟨w, hw⟩ := Size.bits_eq_succ sz
  rw [hw]
  intro d v x a b
  obtain ⟨addV, addC⟩ := aluAdd_overflow_carry d v x
  exact ⟨addV, addC, aluSub_overflow_borrow d v x⟩

end Sys2Proof.Machine

/-! # Shifts and rotates (43_shift_rotate.md R251 to R262)

The closed forms hold for every width n that is not 0 and every count, by induction on the count: the run of k + 1 steps is
one step after the run of k. Of a step, only the shift that a bit enters needs a look at single bits: at the bottom for ROL
and ROXL, at the top for ASR, ROR and ROXR. -/

namespace Sys2Proof.Machine

/-! ## The register forms (R251, R253, R254) -/

theorem shiftReg_ok (op : ShiftOp) (sz : Size) (cnt : ShiftCount) (dn : RegNo) (s : State) :
    let o := shiftRun op (s.shiftCount cnt) (lowPart sz (s.dreg dn)) s.ccr.x
    shiftReg op sz cnt dn s = .ok () ((s.setCcr (shiftFlags o)).setDlow dn sz o.val) := by
  unfold shiftReg
  rw [run_look_bind, run_look_bind, run_bind_ok (shiftResult_run ..), run_update]

theorem quick_eq (q : RegNo) : quick q = if q = 0 then 8 else q.val := by
  simp only [quick, Fin.ext_iff, Fin.val_zero]

/-- Settles O32: the eight operations are one computation. -/
theorem registerShiftResult : Obligations.RegisterShiftResult := by
  intro sz cnt dn s o t
  have run : ∀ op, execute (shiftReg op sz cnt dn) s = .next (t op) := fun op => execute_ok (shiftReg_ok op sz cnt dn s)
  exact ⟨run .asl, run .asr, run .lsl, run .lsr, run .rol, run .ror, run .roxl, run .roxr,
    fun op => (OperandKept.refl [] s).changes_setDlow _ dn sz _, quick_eq, fun _ => rfl⟩

/-! ## Shifts by one that a bit enters -/

section Entering

variable {n : Nat} (v : BitVec n) (b : Bool) {i : Nat}

theorem getLsbD_lowBit (hi : i < n) : (lowBit n b).getLsbD i = (decide (i = 0) && b) := by
  have positive : 0 < n := by omega
  cases b <;> simp [lowBit, carryIn, positive]

theorem getLsbD_topBit (hi : i < n) : (topBit n b).getLsbD i = (decide (i + 1 = n) && b) := by
  have shifted : topBit n b = lowBit n b <<< (n - 1) := rfl
  have top : (!decide (i < n - 1) && decide (i - (n - 1) = 0)) = decide (i + 1 = n) := by grind
  rw [shifted, BitVec.getLsbD_shiftLeft, getLsbD_lowBit b (by omega), decide_eq_true hi, Bool.true_and, ← Bool.and_assoc,
    top]

/-- A bit that enters at the bottom pushes the others up. -/
theorem getLsbD_shiftLeft_or_lowBit (hi : i < n) :
    (v <<< 1 ||| lowBit n b).getLsbD i = if i = 0 then b else v.getLsbD (i - 1) := by
  rw [BitVec.getLsbD_or, BitVec.getLsbD_shiftLeft, getLsbD_lowBit b hi]
  split <;> simp_all

/-- A bit that enters at the top pushes the others down. -/
theorem getLsbD_ushiftRight_or_topBit (hi : i < n) :
    (v >>> 1 ||| topBit n b).getLsbD i = if i + 1 = n then b else v.getLsbD (i + 1) := by
  rw [BitVec.getLsbD_or, BitVec.getLsbD_ushiftRight, getLsbD_topBit b hi, Nat.add_comm 1]
  split <;> simp_all

end Entering

/-! ## Rotations -/

section Rotations

variable {n : Nat} (v : BitVec n)

theorem rotateLeft_zero : v.rotateLeft 0 = v := by
  apply BitVec.eq_of_getLsbD_eq
  intro i hi
  simp [hi]

theorem rotateLeft_add (j k : Nat) : v.rotateLeft (j + k) = (v.rotateLeft j).rotateLeft k := by
  apply BitVec.eq_of_getMsbD_eq
  intro i hi
  have inside : (k + i) % n < n := Nat.mod_lt _ (by omega)
  simp [BitVec.getMsbD_rotateLeft, hi, inside, Nat.add_assoc]

/-- Read from the bottom, a rotation to the right is a rotation of the bit numbers. -/
theorem getLsbD_rotateRight_mod {k i : Nat} (hi : i < n) : (v.rotateRight k).getLsbD i = v.getLsbD ((k + i) % n) := by
  have hk : k % n < n := Nat.mod_lt _ (by omega)
  rw [BitVec.getLsbD_rotateRight, Nat.add_mod, Nat.mod_eq_of_lt hi]
  by_cases h : i < n - k % n
  · have stays : (k % n + i) % n = k % n + i := Nat.mod_eq_of_lt (by omega)
    simp [h, stays]
  · have wraps : (k % n + i) % n = i - (n - k % n) := by
      rw [Nat.mod_eq_sub_mod (by omega), Nat.mod_eq_of_lt (by omega)]
      omega
    simp [h, hi, wraps]

theorem rotateRight_zero : v.rotateRight 0 = v := by
  apply BitVec.eq_of_getLsbD_eq
  intro i hi
  rw [getLsbD_rotateRight_mod v hi, Nat.zero_add, Nat.mod_eq_of_lt hi]

theorem rotateRight_add (j k : Nat) : v.rotateRight (j + k) = (v.rotateRight j).rotateRight k := by
  apply BitVec.eq_of_getLsbD_eq
  intro i hi
  have inside : (k + i) % n < n := Nat.mod_lt _ (by omega)
  rw [getLsbD_rotateRight_mod _ hi, getLsbD_rotateRight_mod _ hi, getLsbD_rotateRight_mod _ inside, Nat.add_mod_mod,
    Nat.add_assoc]

/-- A step of ROL (R259). -/
theorem shiftLeft_or_msb : v <<< 1 ||| lowBit n v.msb = v.rotateLeft 1 := by
  apply BitVec.eq_of_getLsbD_eq
  intro i hi
  rw [getLsbD_shiftLeft_or_lowBit v _ hi, BitVec.getLsbD_rotateLeft, BitVec.msb_eq_getLsbD_last]
  obtain rfl | wide : n = 1 ∨ 1 < n := by omega
  · simp [Nat.lt_one_iff.mp hi]
  · rw [Nat.mod_eq_of_lt wide]
    by_cases h : i = 0 <;> simp [h, hi]

/-- A step of ROR (R260). -/
theorem ushiftRight_or_bottom : v >>> 1 ||| topBit n (v.getLsbD 0) = v.rotateRight 1 := by
  apply BitVec.eq_of_getLsbD_eq
  intro i hi
  rw [getLsbD_ushiftRight_or_topBit v _ hi, getLsbD_rotateRight_mod v hi, Nat.add_comm 1]
  split
  case isTrue last => rw [last, Nat.mod_self]
  case isFalse inner => rw [Nat.mod_eq_of_lt (by omega)]

/-- A step of ASR (R256). -/
theorem ushiftRight_or_msb : v >>> 1 ||| topBit n v.msb = v.sshiftRight 1 := by
  apply BitVec.eq_of_getLsbD_eq
  intro i hi
  rw [getLsbD_ushiftRight_or_topBit v _ hi, BitVec.getLsbD_sshiftRight, Nat.add_comm 1]
  split
  case isTrue last => simp [last, hi]
  case isFalse inner => simp [hi, show i + 1 < n by omega]

/-- A step of ROXL rotates the ring of X and the operand (R261). -/
theorem ring_rotateLeft (hn : 0 < n) (x : Bool) :
    BitVec.ofBool v.msb ++ (v <<< 1 ||| lowBit n x) = (BitVec.ofBool x ++ v).rotateLeft 1 := by
  rw [← shiftLeft_or_msb, BitVec.msb_append, if_neg one_ne_zero, BitVec.msb_ofBool]
  apply BitVec.eq_of_getLsbD_eq
  intro i hi
  rw [getLsbD_shiftLeft_or_lowBit _ _ hi, BitVec.getLsbD_append, BitVec.getLsbD_append]
  by_cases h : i < n
  · have below : i - 1 < n := by omega
    rw [if_pos h, getLsbD_shiftLeft_or_lowBit _ _ h, if_pos below]
  · obtain rfl : i = n := by omega
    simp [BitVec.msb_eq_getLsbD_last, hn, hn.ne']

/-- A step of ROXR rotates the ring the other way (R262). -/
theorem ring_rotateRight (hn : 0 < n) (x : Bool) :
    BitVec.ofBool (v.getLsbD 0) ++ (v >>> 1 ||| topBit n x) = (BitVec.ofBool x ++ v).rotateRight 1 := by
  rw [← ushiftRight_or_bottom, BitVec.getLsbD_append, if_pos hn]
  apply BitVec.eq_of_getLsbD_eq
  intro i hi
  rw [getLsbD_ushiftRight_or_topBit _ _ hi, BitVec.getLsbD_append, BitVec.getLsbD_append]
  by_cases h : i < n
  · have inner : i + 1 ≠ 1 + n := by omega
    rw [if_pos h, getLsbD_ushiftRight_or_topBit _ _ h, if_neg inner]
    by_cases last : i + 1 = n
    · simp [last]
    · have below : i + 1 < n := by omega
      rw [if_neg last, if_pos below]
  · obtain rfl : i = n := by omega
    simp [Nat.add_comm]

end Rotations

/-! ## Runs (R254) -/

theorem shiftSteps_succ {n : Nat} (op : ShiftOp) (k : Nat) (st : ShiftState n) :
    shiftSteps op (k + 1) st = shiftStep op (shiftSteps op k st) := by
  induction k generalizing st with
  | zero => rfl
  | succ k ih => exact ih (shiftStep op st)

theorem shiftRun_succ {n : Nat} (op : ShiftOp) (k : Nat) (v : BitVec n) (x : Bool) :
    shiftRun op (k + 1) v x = shiftStep op (shiftRun op k v x) := shiftSteps_succ op k _

section Runs

variable {n : Nat} {op : ShiftOp} (k : Nat) (v : BitVec n) (x : Bool)

/-- What a step keeps, the run keeps. -/
theorem shiftRun_keeps {α : Type} {part : ShiftState n → α} (step : ∀ st, part (shiftStep op st) = part st) :
    part (shiftRun op k v x) = part (shiftRun op 0 v x) := by
  induction k with
  | zero => rfl
  | succ k ih => rw [shiftRun_succ, step, ih]

/-- What a step moves by 1, the run moves by its count. -/
theorem shiftRun_moves {m : Nat} {part : ShiftState n → BitVec m} {move : BitVec m → Nat → BitVec m}
    (zero : ∀ u, move u 0 = u) (add : ∀ u j, move u (j + 1) = move (move u j) 1)
    (step : ∀ st, part (shiftStep op st) = move (part st) 1) :
    part (shiftRun op k v x) = move (part (shiftRun op 0 v x)) k := by
  induction k with
  | zero => exact (zero _).symm
  | succ k ih => rw [shiftRun_succ, step, ih, ← add]

theorem shiftRun_lsl_val : (shiftRun .lsl k v x).val = v <<< k :=
  shiftRun_moves k v x BitVec.shiftLeft_zero (fun u j => u.shiftLeft_add j 1) fun _ => rfl

theorem shiftRun_asl_val : (shiftRun .asl k v x).val = v <<< k :=
  shiftRun_moves k v x BitVec.shiftLeft_zero (fun u j => u.shiftLeft_add j 1) fun _ => rfl

theorem shiftRun_lsr_val : (shiftRun .lsr k v x).val = v >>> k :=
  shiftRun_moves k v x BitVec.ushiftRight_zero (fun u j => u.shiftRight_add j 1) fun _ => rfl

theorem shiftRun_asr_val : (shiftRun .asr k v x).val = v.sshiftRight k :=
  shiftRun_moves k v x (fun _ => BitVec.sshiftRight_zero) (fun _ _ => BitVec.sshiftRight_add)
    fun st => ushiftRight_or_msb st.val

theorem shiftRun_rol_val : (shiftRun .rol k v x).val = v.rotateLeft k :=
  shiftRun_moves k v x rotateLeft_zero (fun u j => rotateLeft_add u j 1) fun st => shiftLeft_or_msb st.val

theorem shiftRun_ror_val : (shiftRun .ror k v x).val = v.rotateRight k :=
  shiftRun_moves k v x rotateRight_zero (fun u j => rotateRight_add u j 1) fun st => ushiftRight_or_bottom st.val

/-- The ring that ROXL and ROXR rotate: X above the operand. -/
def ShiftState.ring (st : ShiftState n) : BitVec (1 + n) := BitVec.ofBool st.x ++ st.val

theorem shiftRun_roxl_ring (hn : 0 < n) : (shiftRun .roxl k v x).ring = (BitVec.ofBool x ++ v).rotateLeft k :=
  shiftRun_moves k v x rotateLeft_zero (fun u j => rotateLeft_add u j 1) fun st => ring_rotateLeft st.val hn st.x

theorem shiftRun_roxr_ring (hn : 0 < n) : (shiftRun .roxr k v x).ring = (BitVec.ofBool x ++ v).rotateRight k :=
  shiftRun_moves k v x rotateRight_zero (fun u j => rotateRight_add u j 1) fun st => ring_rotateRight st.val hn st.x

/-- All but ROL and ROR leave in X the bit that they leave in C. -/
theorem shiftStep_x_eq_c (hl : op ≠ .rol) (hr : op ≠ .ror) (st : ShiftState n) :
    (shiftStep op st).x = (shiftStep op st).c := by
  cases op with
  | rol => exact absurd rfl hl
  | ror => exact absurd rfl hr
  | _ => rfl

theorem shiftRun_succ_x_eq_c (hl : op ≠ .rol) (hr : op ≠ .ror) :
    (shiftRun op (k + 1) v x).x = (shiftRun op (k + 1) v x).c := by
  rw [shiftRun_succ, shiftStep_x_eq_c hl hr]

/-- ROXL and ROXR leave X in C for a count of 0 too (R253). -/
theorem shiftRun_throughX_c (h : op.throughX = true) : (shiftRun op k v x).c = (shiftRun op k v x).x := by
  cases k with
  | zero => simp [shiftRun, shiftSteps, h]
  | succ k => exact (shiftRun_succ_x_eq_c k v x (by rintro rfl; contradiction) (by rintro rfl; contradiction)).symm

/-- Only ASL writes V. -/
theorem shiftStep_v_of_ne_asl (h : op ≠ .asl) (st : ShiftState n) : (shiftStep op st).v = st.v := by
  cases op with
  | asl => exact absurd rfl h
  | _ => rfl

theorem shiftRun_succ_asl_c : (shiftRun .asl (k + 1) v x).c = (v <<< k).msb := by
  rw [← shiftRun_asl_val k v x, shiftRun_succ]
  rfl

theorem shiftRun_succ_lsl_c : (shiftRun .lsl (k + 1) v x).c = (v <<< k).msb := by
  rw [← shiftRun_lsl_val k v x, shiftRun_succ]
  rfl

theorem shiftRun_succ_lsr_c : (shiftRun .lsr (k + 1) v x).c = (v >>> k).getLsbD 0 := by
  rw [← shiftRun_lsr_val k v x, shiftRun_succ]
  rfl

theorem shiftRun_succ_asr_c : (shiftRun .asr (k + 1) v x).c = (v.sshiftRight k).getLsbD 0 := by
  rw [← shiftRun_asr_val k v x, shiftRun_succ]
  rfl

/-- The bit that ROL carries out is the one that enters at the bottom. -/
theorem shiftRun_succ_rol_c (hn : 0 < n) : (shiftRun .rol (k + 1) v x).c = (v.rotateLeft (k + 1)).getLsbD 0 := by
  rw [← shiftRun_rol_val (k + 1) v x, shiftRun_succ]
  exact (getLsbD_shiftLeft_or_lowBit _ _ hn).symm

/-- The bit that ROR carries out is the one that enters at the top. -/
theorem shiftRun_succ_ror_c (hn : 0 < n) : (shiftRun .ror (k + 1) v x).c = (v.rotateRight (k + 1)).msb := by
  have last : n - 1 < n := Nat.sub_one_lt_of_lt hn
  have entered := getLsbD_ushiftRight_or_topBit (shiftRun .ror k v x).val ((shiftRun .ror k v x).val.getLsbD 0) last
  rw [if_pos (Nat.sub_add_cancel hn), ← BitVec.msb_eq_getLsbD_last] at entered
  rw [← shiftRun_ror_val (k + 1) v x, shiftRun_succ]
  exact entered.symm

/-- V of ASL: some step has changed the sign bit (R255). -/
theorem shiftRun_asl_v_iff : (shiftRun .asl k v x).v = true ↔ ∃ j, j < k ∧ (v <<< j).msb ≠ (v <<< (j + 1)).msb := by
  induction k with
  | zero => simp [shiftRun, shiftSteps]
  | succ k ih =>
    have step : (shiftRun .asl (k + 1) v x).v = ((shiftRun .asl k v x).v || (v <<< (k + 1)).msb != (v <<< k).msb) := by
      rw [shiftRun_succ, BitVec.shiftLeft_add, ← shiftRun_asl_val k v x]
      rfl
    rw [step, Bool.or_eq_true, ih, bne_iff_ne, Nat.exists_lt_succ_right, ne_comm]

end Runs

/-- Settles O34: the results by the runs; after at least one step, C and X are what the last step leaves. -/
theorem shiftClosedForms : Obligations.ShiftClosedForms := by
  intro sz k v x
  have hn : 0 < sz.bits := by cases sz <;> decide
  refine ⟨shiftRun_lsl_val k v x, shiftRun_asl_val k v x, shiftRun_lsr_val k v x, shiftRun_asr_val k v x,
    shiftRun_rol_val k v x, shiftRun_ror_val k v x, shiftRun_keeps k v x fun _ => rfl, shiftRun_keeps k v x fun _ => rfl,
    ⟨shiftRun_roxl_ring k v x hn, shiftRun_throughX_c k v x rfl⟩,
    ⟨shiftRun_roxr_ring k v x hn, shiftRun_throughX_c k v x rfl⟩, ?zero, ?positive,
    fun op h => shiftRun_keeps k v x (shiftStep_v_of_ne_asl h), shiftRun_asl_v_iff k v x⟩
  case zero =>
    rintro rfl op
    exact ⟨rfl, rfl⟩
  case positive =>
    intro hk
    obtain ⟨j, rfl⟩ := Nat.exists_eq_add_one.mpr hk
    have carried : ∀ op, op ≠ .rol → op ≠ .ror → (shiftRun op (j + 1) v x).x = (shiftRun op (j + 1) v x).c :=
      fun _ => shiftRun_succ_x_eq_c j v x
    exact ⟨List.forall_mem_cons.mpr ⟨⟨shiftRun_succ_asl_c j v x, carried .asl nofun nofun⟩,
        List.forall_mem_singleton.mpr ⟨shiftRun_succ_lsl_c j v x, carried .lsl nofun nofun⟩⟩,
      ⟨shiftRun_succ_lsr_c j v x, carried .lsr nofun nofun⟩, ⟨shiftRun_succ_asr_c j v x, carried .asr nofun nofun⟩,
      shiftRun_succ_rol_c j v x hn, shiftRun_succ_ror_c j v x hn⟩

end Sys2Proof.Machine

/-! # Bit manipulation (44_bit_manipulation.md R270 to R277)

An instruction is the source of its bit number followed by the test or modification of the operand. The number comes from
a data register or an extension word; each operand shape has one lemma for any number. -/

namespace Sys2Proof.Machine

/-! ## The bit number (R272, R273) -/

theorem fetchBitNumber_ok {s s1 : State} {w : Word} (h : fetch16 s = .ok w s1) :
    fetchBitNumber s = .ok (w.toNat % 256) s1 := run_bind_ok h

section Numbered

variable {number : M Nat} {s s0 t : State} {k : Nat} {ea : Ea}

/-- An instruction whose bit number is found treats the operand in the state that finding it leaves. -/
theorem execute_bitTest (hn : number s = .ok k s0) (h : bitTest k ea s0 = .ok () t) :
    execute (number >>= fun k => bitTest k ea) s = .next t := execute_ok ((run_bind_ok hn).trans h)

theorem execute_bitModify {op : BitOp} (hn : number s = .ok k s0) (h : bitModify op k ea s0 = .ok () t) :
    execute (number >>= fun k => bitModify op k ea) s = .next t := execute_ok ((run_bind_ok hn).trans h)

end Numbered

/-! ## The operand (R270, R271) -/

/-- The flags after a bit of the operand is tested: Z its complement, the others kept. -/
def bitFlags {n : Nat} (f : Ccr) (v : BitVec n) (k : Nat) : Ccr := { f with z := !v.getLsbD k }

theorem bitResult_ok {n : Nat} (op : BitOp) (v : BitVec n) (k : Nat) (s : State) :
    bitResult op v k s = .ok (op.apply v k) (s.setCcr (bitFlags s.ccr v k)) := bitResult_run op v k s

theorem lowPart_long (v : Long) : lowPart .l v = v := BitVec.setWidth_eq v

/-- A data register has 32 bits to modify. -/
theorem bitModify_dn (op : BitOp) (k : Nat) (n : RegNo) (s : State) :
    bitModify op k (.dn n) s =
      .ok () ((s.setCcr (bitFlags s.ccr (s.dreg n) (k % 32))).setDreg n (op.apply (s.dreg n) (k % 32))) := by
  have result := bitResult_ok op (lowPart .l (s.dreg n)) (k % 32) s
  rw [lowPart_long] at result
  exact modifyEa_dn (sz := .l) (by rw [lowPart_long]; exact result)

/-- A data register has 32 bits to test. -/
theorem bitTest_dn (k : Nat) (n : RegNo) (s : State) :
    bitTest k (.dn n) s = .ok () (s.setCcr (bitFlags s.ccr (s.dreg n) (k % 32))) := by
  have read : readEa .l (.dn n) s = .ok (s.dreg n) s := congrArg (EStateM.Result.ok · s) (lowPart_long (s.dreg n))
  exact (run_bind_ok read).trans (run_bind_ok (bitResult_ok .tst _ _ s))

/-- Elsewhere than in a data register the operand is a byte. -/
theorem bitModify_byte (op : BitOp) (k : Nat) {ea : Ea} (hm : ea.isMemory = true) :
    bitModify op k ea = modifyEa .b ea fun v => bitResult op v (k % 8) := by
  cases ea with
  | dn | an => simp [Ea.isMemory] at hm
  | _ => rfl

theorem bitTest_byte (k : Nat) {ea : Ea} (hm : ea.isMemory = true) :
    bitTest k ea = (readEa .b ea >>= fun v => bitResult .tst v (k % 8) >>= fun _ => pure ()) := by
  cases ea with
  | dn | an => simp [Ea.isMemory] at hm
  | _ => rfl

theorem bitModify_memory (op : BitOp) (k : Nat) {ea : Ea} {s s1 : State} {a : Long} (hm : ea.isMemAlterable = true)
    (ha : eaAddr .b ea s = .ok a s1) (hr : s1.canRead s1.dataFc a .b = true) (hs : s1.canStore s1.dataFc a .b = true) :
    let b : Byte := s1.load s1.dataFc a .b
    bitModify op k ea s =
      .ok () ((s1.setCcr (bitFlags s1.ccr b (k % 8))).store s1.dataFc a .b (op.apply b (k % 8))) := by
  intro b
  have memory : ea.isMemory = true := (Bool.and_eq_true_iff.mp hm).1
  rw [bitModify_byte op k memory]
  exact modifyEa_memory_flags hm ha hr hs (bitResult_ok op b (k % 8) s1)

theorem bitTest_memory (k : Nat) {ea : Ea} {s s1 : State} {b : Byte} (hm : ea.isMemory = true)
    (h : readEa .b ea s = .ok b s1) : bitTest k ea s = .ok () (s1.setCcr (bitFlags s1.ccr b (k % 8))) := by
  rw [bitTest_byte k hm, run_bind_ok h, run_bind_ok (bitResult_ok .tst b (k % 8) s1), run_pure]

/-! ## The instructions (R274 to R277) -/

/-- Settles O35: the register is tested or modified in the state that the number leaves, which is the instruction's own or
that after the extension word. -/
theorem bitOnRegisterResult : Obligations.BitOnRegisterResult := by
  intro n s z t
  have frame : ∀ {u : State}, OperandKept [] s u →
      ∀ k op, Changes [n] [] [] s (t u k op) ∧ Changes [] [] [] s (z u k) := fun h k op =>
    ⟨h.changes_setDreg _ n _, h.changes_setCcr _⟩
  have test : ∀ {number : M Nat} {u : State} {k : Nat}, number s = .ok k u →
      execute (number >>= fun k => bitTest k (.dn n)) s = .next (z u k) := fun h =>
    execute_bitTest h (bitTest_dn _ n _)
  have modify : ∀ {number : M Nat} {u : State} {k : Nat}, number s = .ok k u →
      ∀ op, execute (number >>= fun k => bitModify op k (.dn n)) s = .next (t u k op) := fun h op =>
    execute_bitModify h (bitModify_dn op _ n _)
  refine ⟨fun m => ?register, fun w s1 hw => ?extension, frame (OperandKept.refl [] s)⟩
  case register =>
    have number : look (fun s => (s.dreg m).toNat) s = .ok (s.dreg m).toNat s := run_look _ s
    exact ⟨test number, modify number .chg, modify number .clr, modify number .set⟩
  case extension =>
    have number := fetchBitNumber_ok hw
    exact ⟨test number, modify number .chg, modify number .clr, modify number .set, frame (fetch16_kept hw) _⟩

/-- Settles O36: whichever way the number comes, it leaves a state in which the byte is tested or modified. -/
theorem bitOnMemoryResult : Obligations.BitOnMemoryResult := by
  intro ea s s0 s1 a k dynamic z source
  have register : dynamic = true → ∀ m : RegNo, k = (s.dreg m).toNat →
      look (fun s => (s.dreg m).toNat) s = .ok k s0 := by
    rintro rfl m rfl
    obtain rfl : s0 = s := source
    rfl
  have extension : dynamic = false → fetchBitNumber s = .ok k s0 := by
    rintro rfl
    obtain ⟨w, hw, rfl⟩ := source
    exact fetchBitNumber_ok hw
  have found : OperandKept [] s s0 := by
    cases dynamic with
    | true =>
      obtain rfl : s0 = s := source
      exact OperandKept.refl [] s0
    | false =>
      obtain ⟨w, hw, -⟩ := source
      exact fetch16_kept hw
  have operand : OperandKept ea.updates s0 s1 → OperandKept ea.updates s s1 := (found.mono (by simp)).trans
  refine ⟨fun hm ha hr hs => ?modify, fun b hm hb => ?test⟩
  case modify =>
    intro b t
    have modify : ∀ {number : M Nat}, number s = .ok k s0 →
        ∀ op, execute (number >>= fun k => bitModify op k ea) s = .next (t op) := fun h op =>
      execute_bitModify h (bitModify_memory op k hm ha hr hs)
    refine ⟨fun hd m hk => ?_, fun hd => ?_, fun op => (operand (eaAddr_kept ha)).changes_store _ _ a .b _⟩
    · have number := register hd m hk
      exact ⟨modify number .chg, modify number .clr, modify number .set⟩
    · have number := extension hd
      exact ⟨modify number .chg, modify number .clr, modify number .set⟩
  case test =>
    have tested := bitTest_memory k hm hb
    exact ⟨fun hd m hk => execute_bitTest (register hd m hk) tested,
      fun hd _ => execute_bitTest (extension hd) tested, (operand (readEa_kept hb)).changes_setCcr _⟩

end Sys2Proof.Machine

/-! # Decimal arithmetic (45_bcd.md R280 to R286)

The three instructions are operand shapes around `decimalResult`, which always answers. A decimal sum or difference is
that of the low digits, whose carry or borrow goes into that of the high digits. -/

namespace Sys2Proof.Machine

/-! ## The decimal operations answer (R280, R282; decision D8, log 15) -/

theorem decimalAdd_run (d v : Byte) (s : State) :
    decimalAdd d v s = decimalResult (isBcd d && isBcd v) (bcdAdd d v s.ccr.x) s := rfl

theorem decimalSub_run (d v : Byte) (s : State) :
    decimalSub d v s = decimalResult (isBcd d && isBcd v) (bcdSub d v s.ccr.x) s := rfl

/-- Zero has valid digits, so a difference from it is valid where the subtrahend is. -/
theorem decimalNegate_run (d : Byte) (s : State) :
    decimalSub 0 d s = decimalResult (isBcd d) (bcdSub 0 d s.ccr.x) s := rfl

/-- The state after a free draw. -/
def State.drawn (s : State) : State := { s with draws := s.draws + 1 }

@[simp] theorem State.drawn_dataFc (s : State) : s.drawn.dataFc = s.dataFc := rfl

@[simp] theorem State.drawn_canStore (s : State) (fc : BitVec 3) (a : Long) (sz : Size) :
    s.drawn.canStore fc a sz = s.canStore fc a sz := State.canStore_congr rfl rfl fc a sz

/-- The draw of a decimal result comes after the operands' evaluation. -/
theorem OperandKept.drawn {as : List RegNo} {s t : State} (h : OperandKept as s t) : OperandKept as s t.drawn :=
  h.trans (operandKept_draws as t (t.draws + 1) t.resetIn)

/-- Whether or not the digits are valid there is a byte with flags; on valid digits they are those of the operation. -/
theorem decimalResult_answers (valid : Bool) (o : Byte × Bool) (s : State) :
    ∃ f r, decimalResult valid o s = .ok r (s.drawn.setCcr f) ∧
      (valid = true → r = o.1 ∧ f.x = o.2 ∧ f.c = o.2 ∧ f.z = (s.ccr.z && decide (o.1 = 0))) := by
  cases valid with
  | true =>
    obtain ⟨n, v, run⟩ := decimalResult_valid o s
    exact ⟨_, _, run, fun _ => ⟨rfl, rfl, rfl, rfl⟩⟩
  | false =>
    obtain ⟨r, f, run⟩ := decimalResult_invalid o s
    exact ⟨f, r, run, nofun⟩

/-! ## The instructions (R284 to R286) -/

/-- Settles O37: the result goes to the low byte of a register, whichever shape the instruction has. -/
theorem decimalRegisterResult : Obligations.DecimalRegisterResult := by
  intro x y s d v u t any
  have abcd : ∀ {f r}, decimalAdd d v s = .ok r (u.setCcr f) → exec (.abcd .regs x y) s = .next (any f r) :=
    fun h => execute_ok (pairOp_regs_ok h)
  have sbcd : ∀ {f r}, decimalSub d v s = .ok r (u.setCcr f) → exec (.sbcd .regs x y) s = .next (any f r) :=
    fun h => execute_ok (pairOp_regs_ok h)
  have nbcd : ∀ {f r}, decimalSub 0 d s = .ok r (u.setCcr f) → exec (.nbcd (.dn x)) s = .next (any f r) :=
    fun h => execute_ok (modifyEa_dn (sz := .b) (f := decimalSub 0) h)
  have onValid : ∀ {i : Instr} {m : M Byte} {o : Byte × Bool},
      (∀ {f r}, m s = .ok r (u.setCcr f) → exec i s = .next (any f r)) → m s = decimalResult true o s →
      ∃ n w, exec i s = .next (t o n w) := by
    intro i m o run hm
    obtain ⟨n, w, result⟩ := decimalResult_valid o s
    exact ⟨n, w, run (hm.trans result)⟩
  have onInvalid : ∀ {i : Instr} {m : M Byte} {o : Byte × Bool},
      (∀ {f r}, m s = .ok r (u.setCcr f) → exec i s = .next (any f r)) → m s = decimalResult false o s →
      ∃ f r, exec i s = .next (any f r) := by
    intro i m o run hm
    obtain ⟨r, f, result⟩ := decimalResult_invalid o s
    exact ⟨f, r, run (hm.trans result)⟩
  exact ⟨fun hd hv => onValid abcd (by simp [decimalAdd_run, hd, hv]),
    fun hd hv => onValid sbcd (by simp [decimalSub_run, hd, hv]),
    fun hd => onValid nbcd (by rw [decimalNegate_run, hd]),
    fun hi => onInvalid abcd (by rw [decimalAdd_run, hi]),
    fun hi => onInvalid sbcd (by rw [decimalSub_run, hi]),
    fun hi => onInvalid nbcd (by rw [decimalNegate_run, hi]),
    fun f r => (OperandKept.refl [] s).drawn.changes_setDlow f x .b r⟩

/-- Settles O38: the decimal result answers in the state that the operands leave, and its byte is stored. -/
theorem decimalMemoryResult : Obligations.DecimalMemoryResult := by
  constructor
  case left =>
    intro x y s s1 s2 ay ax fc d v t hy hx hs
    have source : OperandKept [x, y] s s1 := (operandKept_setAreg s y _).mono (by simp)
    have both : OperandKept [x, y] s s2 := source.trans ((operandKept_setAreg s1 x _).mono (by simp))
    have run : ∀ {g : Byte → Byte → M Byte} {f : Ccr} {r : Byte},
        g d v s2 = .ok r (s2.drawn.setCcr f) → execute (pairOp .b .mem x y g) s = .next (t f r) := by
      intro g f r hg
      have read := pairOp_mem_ok (sz := .b) (ax := ax) (ay := ay) rfl (source.memRead_ok (by simp [s1]) hy) rfl
        (both.memRead_ok (by simp [s2, s1]) hx) hg (by simpa [s2, s1] using hs)
      rw [State.setCcr_dataFc, State.drawn_dataFc, State.dataFc_congr both.sr] at read
      exact execute_ok read
    have settled : ∀ {g : Byte → Byte → M Byte} {o : Byte × Bool},
        g d v s2 = decimalResult (isBcd d && isBcd v) o s2 →
        ∃ f r, execute (pairOp .b .mem x y g) s = .next (t f r) ∧ (isBcd d = true → isBcd v = true →
          r = o.1 ∧ f.x = o.2 ∧ f.c = o.2 ∧ f.z = (s.ccr.z && decide (o.1 = 0))) := by
      intro g o hg
      obtain ⟨f, r, result, fixed⟩ := decimalResult_answers (isBcd d && isBcd v) o s2
      rw [both.ccr] at fixed
      exact ⟨f, r, run (hg.trans result), fun hd hv => fixed (by rw [hd, hv, Bool.and_self])⟩
    refine ⟨settled ?_, settled ?_, fun f r => ?_⟩
    · rw [decimalAdd_run, both.ccr]
    · rw [decimalSub_run, both.ccr]
    · exact State.cells_congr both.kept.rest.platform fc ax .b ▸ both.drawn.changes_store f fc ax .b r
  case right =>
    intro ea s s1 a hm ha hr hs t
    let d := s1.byteAt s1.dataFc a
    obtain ⟨f, r, result, fixed⟩ := decimalResult_answers (isBcd d) (bcdSub 0 d s1.ccr.x) s1
    have run := modifyEa_memory (sz := .b) (f := decimalSub 0) hm ha hr ((decimalNegate_run d s1).trans result)
      (by simpa using hs)
    simp only [State.setCcr_dataFc, State.drawn_dataFc] at run
    exact ⟨⟨f, r, execute_ok run, fixed⟩, fun f r => (eaAddr_kept ha).drawn.changes_store f s1.dataFc a .b r⟩

/-! ## The values of the digits (R281, R283; decision D8) -/

theorem isBcd_iff (b : Byte) : isBcd b = true ↔ b.toNat % 16 ≤ 9 ∧ b.toNat / 16 ≤ 9 := by
  rw [isBcd, Bool.and_eq_true, decide_eq_true_eq, decide_eq_true_eq]

theorem carryIn_true : carryIn true = 1 := rfl

theorem carryIn_false : carryIn false = 0 := rfl

/-- The sum of two decimal digits with its carry. -/
def digitAdd (d s : Nat) (x : Bool) : Nat × Bool :=
  let t := d + s + carryIn x
  let c := decide (9 < t)
  (if c then t - 10 else t, c)

/-- The difference of two decimal digits with its borrow. -/
def digitSub (d s : Nat) (x : Bool) : Int × Bool :=
  let t : Int := d - s - carryIn x
  let b := decide (t < 0)
  (if b then t + 10 else t, b)

/-- The sum of two bytes is that of their low digits and that of their high digits with the carry. -/
theorem bcdAdd_eq_digits (d s : Byte) (x : Bool) : bcdAdd d s x =
    let lo := digitAdd (d.toNat % 16) (s.toNat % 16) x
    let hi := digitAdd (d.toNat / 16) (s.toNat / 16) lo.2
    (BitVec.ofNat 8 (16 * hi.1 + lo.1), hi.2) := rfl

theorem bcdSub_eq_digits (d s : Byte) (x : Bool) : bcdSub d s x =
    let lo := digitSub (d.toNat % 16) (s.toNat % 16) x
    let hi := digitSub (d.toNat / 16) (s.toNat / 16) lo.2
    (BitVec.ofInt 8 (16 * hi.1 + lo.1), hi.2) := rfl

/-- A carry stands for ten of the sum. -/
theorem digitAdd_exact {d s : Nat} (hd : d ≤ 9) (hs : s ≤ 9) (x : Bool) :
    (digitAdd d s x).1 ≤ 9 ∧ d + s + carryIn x = 10 * carryIn (digitAdd d s x).2 + (digitAdd d s x).1 := by
  have hx := carryIn_bounds x
  by_cases h : 9 < d + s + carryIn x
  · simp only [digitAdd, h, decide_true, if_true, carryIn_true]
    omega
  · simp only [digitAdd, h, decide_false, Bool.false_eq_true, if_false, carryIn_false]
    omega

/-- A borrow stands for ten added to the minuend. -/
theorem digitSub_exact {d s : Nat} (hd : d ≤ 9) (hs : s ≤ 9) (x : Bool) :
    0 ≤ (digitSub d s x).1 ∧ (digitSub d s x).1 ≤ 9 ∧
      (d : Int) + 10 * carryIn (digitSub d s x).2 = (digitSub d s x).1 + s + carryIn x := by
  have hx := carryIn_bounds x
  by_cases h : (d - s - carryIn x : Int) < 0
  · simp only [digitSub, h, decide_true, if_true, carryIn_true]
    omega
  · simp only [digitSub, h, decide_false, Bool.false_eq_true, if_false, carryIn_false]
    omega

/-- A byte put together from two decimal digits has them as its nibbles. -/
theorem nibbles_ofNat {hi lo : Nat} (hhi : hi ≤ 9) (hlo : lo ≤ 9) :
    (BitVec.ofNat 8 (16 * hi + lo)).toNat / 16 = hi ∧ (BitVec.ofNat 8 (16 * hi + lo)).toNat % 16 = lo := by
  rw [BitVec.toNat_ofNat]
  omega

theorem nibbles_ofInt {hi lo : Int} (hhi0 : 0 ≤ hi) (hhi : hi ≤ 9) (hlo0 : 0 ≤ lo) (hlo : lo ≤ 9) :
    ((BitVec.ofInt 8 (16 * hi + lo)).toNat / 16 : Nat) = hi ∧
    ((BitVec.ofInt 8 (16 * hi + lo)).toNat % 16 : Nat) = lo := by
  rw [BitVec.toNat_ofInt]
  omega

/-- The value that a byte of decimal digits stands for. -/
def bcdValue (b : Byte) : Nat := b.toNat / 16 * 10 + b.toNat % 16

section Values

variable {d v : Byte} (hd : isBcd d = true) (hv : isBcd v = true) (x : Bool)

include hd hv

/-- The carry out of the low digits, worth ten, is the one that goes into the high digits, where it is worth one. -/
theorem bcdAdd_value : isBcd (bcdAdd d v x).1 = true ∧
    bcdValue d + bcdValue v + carryIn x = 100 * carryIn (bcdAdd d v x).2 + bcdValue (bcdAdd d v x).1 := by
  obtain ⟨dlo, dhi⟩ := (isBcd_iff d).mp hd
  obtain ⟨vlo, vhi⟩ := (isBcd_iff v).mp hv
  obtain ⟨lo, loExact⟩ := digitAdd_exact dlo vlo x
  obtain ⟨hi, hiExact⟩ := digitAdd_exact dhi vhi (digitAdd (d.toNat % 16) (v.toNat % 16) x).2
  obtain ⟨hiNibble, loNibble⟩ := nibbles_ofNat hi lo
  simp only [isBcd_iff, bcdValue, bcdAdd_eq_digits, hiNibble, loNibble]
  omega

/-- The borrow of the low digits, worth ten, is the one that the high digits give, where it is worth one. -/
theorem bcdSub_value : isBcd (bcdSub d v x).1 = true ∧
    bcdValue d + 100 * carryIn (bcdSub d v x).2 = bcdValue (bcdSub d v x).1 + bcdValue v + carryIn x := by
  obtain ⟨dlo, dhi⟩ := (isBcd_iff d).mp hd
  obtain ⟨vlo, vhi⟩ := (isBcd_iff v).mp hv
  obtain ⟨lo0, lo, loExact⟩ := digitSub_exact dlo vlo x
  obtain ⟨hi0, hi, hiExact⟩ := digitSub_exact dhi vhi (digitSub (d.toNat % 16) (v.toNat % 16) x).2
  obtain ⟨hiNibble, loNibble⟩ := nibbles_ofInt hi0 hi lo0 lo
  simp only [isBcd_iff, bcdValue, bcdSub_eq_digits]
  omega

end Values

/-- Settles O39. -/
theorem decimalValues : Obligations.DecimalValues := by
  intro d v x hd hv value
  obtain ⟨sumDigits, sum⟩ := bcdAdd_value hd hv x
  obtain ⟨differenceDigits, difference⟩ := bcdSub_value hd hv x
  exact ⟨sum, difference, sumDigits, differenceDigits⟩

end Sys2Proof.Machine

/-! # Program control (46_program_control.md R291 to R293, R295, R296, R299, R310 to R312)

A branch is the evaluation of its target, which changes PC by its displacement word at most, and a jump. A return is its
pops, each of which sets A7 in a state that then reads as before, and a jump. -/

namespace Sys2Proof.Machine

/-! ## Branches and jumps (R291 to R293, R295, R296, R299) -/

/-- A displacement in the operation word (R291). -/
theorem branchTarget_short {disp : Byte} (h : disp ≠ 0) (s : State) :
    branchTarget disp s = .ok (s.pc + disp.signExtend 32) s := by
  simp only [branchTarget, run_look_bind]
  rw [if_neg h, run_pure]

/-- A displacement word: the base is PC before the word is consumed (R291). -/
theorem branchTarget_word {s s1 : State} {w : Word} (h : fetch16 s = .ok w s1) :
    branchTarget 0 s = .ok (s.pc + w.signExtend 32) s1 := by
  simp only [branchTarget, run_look_bind, ↓reduceIte]
  rw [run_bind_ok h, run_pure]

theorem OperandKept.changes_jump {as : List RegNo} {s s1 : State} (h : OperandKept as s s1) (a : Long) :
    Changes [] as [] s (s1.jump a) := by
  simpa using h.changes.append (Machine.changes_jump s1 a)

theorem exec_bcc_target {c : Cond} {disp : Byte} {s s1 : State} {a : Long} (ha : branchTarget disp s = .ok a s1) :
    exec (.bcc c disp) s = .next (if condHolds c s.ccr then s1.jump a else s1) :=
  execute_ok <| by rw [run_bind_ok ha, run_update, (branchTarget_kept ha).ccr]

/-- DBcc ends where its condition holds, else where the counter has passed zero, else at the target (R295). -/
theorem exec_dbcc_target {c : Cond} {dn : RegNo} {s s1 : State} {a : Long} (ha : branchTarget 0 s = .ok a s1) :
    let k := lowPart .w (s.dreg dn) - 1
    let t := s1.setDlow dn .w k
    exec (.dbcc c dn) s = .next (if condHolds c s.ccr then s1 else if k = 0xFFFF then t else t.jump a) := by
  intro k t
  have target := branchTarget_kept ha
  refine execute_ok ?_
  rw [run_bind_ok ha, run_look_bind, target.ccr]
  by_cases holds : condHolds c s.ccr = true
  · rw [if_pos holds, if_pos holds, run_pure]
  · rw [if_neg holds, if_neg holds, run_look_bind, run_update_bind, target.dreg dn]
    by_cases passed : k = 0xFFFF
    · rw [if_neg (not_not_intro passed), if_pos passed, run_pure]
    · rw [if_pos passed, if_neg passed, run_update]

/-- Settles O41: each instruction is run from its target on, and its frame is that of the target followed by those of the
counter and the jump. -/
theorem branchResult : Obligations.BranchResult := by
  refine ⟨fun disp s h => branchTarget_short h s, fun w s s1 h => branchTarget_word h, ?always, ?counted, ?jmp,
    fun s => rfl⟩
  case always =>
    intro disp s s1 a ha
    have target := branchTarget_kept ha
    exact ⟨execute_ok (run_bind_ok ha), fun c => exec_bcc_target ha, target.changes_jump a, target.changes, target.sr,
      target.sr⟩
  case counted =>
    intro c dn s s1 a ha k t
    have target := branchTarget_kept ha
    have counter : Changes [dn] [] [] s t := target.changes.append (changes_setDlow s1 dn .w k)
    exact ⟨exec_dbcc_target ha, counter, counter.append (changes_jump t a), target.sr⟩
  case jmp =>
    intro ea s s1 a hc ha
    have address := eaAddr_control_kept hc ha
    exact ⟨execute_ok (run_bind_ok ha), address.changes_jump a, address.sr⟩

/-! ## Returns (R310 to R312) -/

theorem State.setAreg_setAreg (s : State) (n : RegNo) (v w : Long) : (s.setAreg n v).setAreg n w = s.setAreg n w := by
  by_cases h : n.val < 7
  · simp [State.setAreg, h]
  · cases hs : s.supervisor <;> simp only [State.setAreg, h, hs, ↓reduceDIte] <;> simp_all [State.supervisor]

/-- The flags and an address register may be written in either order. -/
theorem State.setCcr_setAreg (s : State) (f : Ccr) (n : RegNo) (v : Long) :
    (s.setAreg n v).setCcr f = (s.setCcr f).setAreg n v := by
  by_cases h : n.val < 7
  · simp only [State.setAreg, h, ↓reduceDIte]; rfl
  · cases hs : s.supervisor <;> simp only [State.setAreg, h, hs, State.setCcr_supervisor, ↓reduceDIte] <;> rfl

/-- A long popped where A7 has been set, from memory as it was before that. -/
theorem pop32_setSp {s : State} {sp : Long} (h : s.canRead s.dataFc sp .l = true) :
    pop32 (s.setAreg spReg sp) = .ok (s.load s.dataFc sp .l) (s.setAreg spReg (sp + 4)) := by
  have read := (operandKept_setAreg s spReg sp).memRead_ok (State.setAreg_resetIn s spReg sp) h
  simp only [pop32, run_look_bind, State.setAreg_areg_same]
  rw [run_bind_ok read, run_update_bind, run_pure, State.setAreg_areg_same, State.setAreg_setAreg]

theorem sp_past_word_and_long (sp : Long) : sp + 2 + 4 = sp + 6 := BitVec.add_assoc sp 2 4

theorem exec_rts_popped {s : State} (h : s.canRead s.dataFc (s.areg spReg) .l = true) :
    exec .rts s = .next ((s.setAreg spReg (s.areg spReg + 4)).jump (s.load s.dataFc (s.areg spReg) .l)) :=
  execute_ok <| by rw [run_bind_ok (pop32_ok h), run_update]

/-- The condition codes are restored between the pops; S stays, so that both pops use the same stack (R311). -/
theorem exec_rtr_popped {s : State} (hw : s.canRead s.dataFc (s.areg spReg) .w = true)
    (hl : s.canRead s.dataFc (s.areg spReg + 2) .l = true) :
    exec .rtr s = .next (((s.writeCcr (s.load s.dataFc (s.areg spReg) .w)).setAreg spReg (s.areg spReg + 6)).jump
      (s.load s.dataFc (s.areg spReg + 2) .l)) := by
  have flagged : ∀ w : Word, (s.setAreg spReg (s.areg spReg + 2)).writeCcr w =
      (s.writeCcr w).setAreg spReg (s.areg spReg + 2) := fun w => s.setCcr_setAreg (ccrOf w) spReg _
  have popped : ∀ w : Word, pop32 ((s.writeCcr w).setAreg spReg (s.areg spReg + 2)) =
      .ok (s.load s.dataFc (s.areg spReg + 2) .l) ((s.writeCcr w).setAreg spReg (s.areg spReg + 2 + 4)) := by
    intro w
    have fc : (s.writeCcr w).dataFc = s.dataFc := s.setCcr_dataFc (ccrOf w)
    rw [pop32_setSp, fc, State.load_congr (State.writeCcr_platform s w) (State.writeCcr_mem s w)]
    rwa [fc, State.canRead_congr (State.writeCcr_platform s w) (State.writeCcr_resetIn s w)]
  refine execute_ok ?_
  rw [run_bind_ok (pop16_ok hw), run_update_bind, flagged, run_bind_ok (popped _), run_update, sp_past_word_and_long]

/-- SR is replaced after both pops, so that both use the supervisor stack (R312). -/
theorem exec_rte_popped {s : State} (hs : s.supervisor = true) (hw : s.canRead s.dataFc (s.areg spReg) .w = true)
    (hl : s.canRead s.dataFc (s.areg spReg + 2) .l = true) :
    exec .rte s = .next (({ s with ssp := s.ssp + 6 }.writeSr (s.load s.dataFc (s.areg spReg) .w)).jump
      (s.load s.dataFc (s.areg spReg + 2) .l)) := by
  refine execute_ok ?_
  rw [privileged_supervisor hs, run_bind_ok (pop16_ok hw), run_bind_ok (pop32_setSp hl), run_update,
    sp_past_word_and_long, setAreg_sp_supervisor hs, areg_sp_supervisor hs]

/-- Settles O42: the frames are those of the updates that the pops leave. -/
theorem returnResult : Obligations.ReturnResult := by
  intro s sp fc
  refine ⟨?rts, ?rtr, ?rte⟩
  case rts =>
    intro hl t
    exact ⟨exec_rts_popped hl, (operandKept_setAreg s spReg (sp + 4)).changes_jump _, State.setAreg_sr s spReg _⟩
  case rtr =>
    intro hw hl t
    have restored := (changes_setCcr s (ccrOf (s.load fc sp .w))).append (changes_setAreg _ spReg (sp + 6))
    refine ⟨exec_rtr_popped hw hl, restored.append (changes_jump _ _), ?_⟩
    calc t.ccr
      _ = (s.writeCcr (s.load fc sp .w)).ccr := by simp [t, State.ccr]
      _ = ccrOf (s.load fc sp .w) := State.setCcr_ccr s _
  case rte =>
    intro hs hw hl t
    exact ⟨exec_rte_popped hs hw hl, rfl, rfl, rfl, rfl, rfl, MemoryKept.of_mem rfl rfl⟩

end Sys2Proof.Machine

/-! # System control (47_system_control.md R321 to R327, R329 to R332, R336, R337, R339 to R342; 60_exceptions.md R379,
R380, R383)

An instruction on SR or the CCR fetches or reads a word, which keeps SR, and writes SR. A trap is the entry of its vector
in the state that the instruction has reached. -/

namespace Sys2Proof.Machine

/-! ## Instructions on SR and the CCR (R321 to R327, R331, R332, R340) -/

/-- SR combined with an immediate is the SR of before the fetch. -/
theorem combineSr_run (op : Word → Word → Word) (write : State → Word → State) {s s1 : State} {w : Word}
    (h : fetch16 s = .ok w s1) :
    (fetch16 >>= fun w => update fun t => write t (op t.sr w)) s = .ok () (write s1 (op s.sr w)) := by
  rw [run_bind_ok h, run_update, (fetch16_kept h).sr]

/-- Settles O43: SR is combined as it was, and the operand's frame is followed by that of the flags. -/
theorem conditionCodeWrites : Obligations.ConditionCodeWrites := by
  refine ⟨fun s s1 w hw => ⟨?andi, ?eori, ?ori, (fetch16_kept hw).changes_setCcr⟩, fun ea s s1 w hw => ⟨?move, ?frame⟩⟩
  case andi => exact execute_ok (combineSr_run (· &&& ·) State.writeCcr hw)
  case eori => exact execute_ok (combineSr_run (· ^^^ ·) State.writeCcr hw)
  case ori => exact execute_ok (combineSr_run (· ||| ·) State.writeCcr hw)
  case move => exact execute_ok (run_bind_ok hw)
  case frame => exact (readEa_kept hw).changes_setCcr (ccrOf w)

/-! ## In supervisor mode (R325 to R327, R332, R336, R337, R339, R340) -/

theorem execute_privileged_ok {m : M Unit} {s t : State} (hs : s.supervisor = true) (h : m s = .ok () t) :
    execute (privileged m) s = .next t :=
  execute_ok ((privileged_supervisor hs).trans h)

/-- In supervisor mode the evaluation of an operand leaves USP, which is no A7 then (10_state.md R26). -/
theorem OperandKept.usp {as : List RegNo} {s t : State} (h : OperandKept as s t) (hs : s.supervisor = true) :
    t.usp = s.usp := by
  simpa only [hs, ↓reduceIte] using h.kept.rest.other

/-- Settles O44: the privilege check passes, and each instruction is its updates. -/
theorem supervisorResult : Obligations.SupervisorResult := by
  intro s hs others
  refine ⟨fun s1 w hw => ?immediate, fun ea s1 w hw => ?move, fun an => ?usp, execute_privileged_ok hs rfl⟩
  case immediate =>
    intro t
    have kept : ∀ v run, others { t v with run := run } := by
      obtain ⟨stale, draws, resetIn, rfl⟩ := fetch16_state hw
      exact fun v run => ⟨rfl, rfl, rfl, rfl, MemoryKept.of_mem rfl rfl⟩
    exact ⟨execute_privileged_ok hs (combineSr_run (· &&& ·) State.writeSr hw),
      execute_privileged_ok hs (combineSr_run (· ^^^ ·) State.writeSr hw),
      execute_privileged_ok hs (combineSr_run (· ||| ·) State.writeSr hw),
      execute_privileged_ok hs (run_bind_ok hw), fun v => kept v s1.run, kept w .stopped⟩
  case move =>
    have operand := readEa_kept hw
    exact ⟨execute_privileged_ok hs (run_bind_ok hw), operand.d, operand.mem, operand.usp hs, operand.kept.aregs⟩
  case usp =>
    exact ⟨execute_privileged_ok hs rfl, execute_privileged_ok hs rfl, changes_setAreg s an s.usp,
      State.setAreg_sr s an s.usp⟩

/-! ## Traps and the unimplemented lines (R330, R341, R342; 60_exceptions.md R379, R380) -/

theorem trapv_clear {s : State} (h : s.ccr.v = false) : exec .trapv s = .next s :=
  execute_ok <| by rw [run_look_bind, h, if_neg Bool.false_ne_true, run_pure]

theorem trapv_set {s : State} (h : s.ccr.v = true) (hc : s.canEnter 7 = true) :
    exec .trapv s = .next (s.entered 7 s.pc none) :=
  execute_ok <| by rw [run_look_bind, h, if_pos rfl, raiseTrap_ok hc]

/-- Settles O46: each is the entry of its vector; the vector number of a TRAP does not wrap. -/
theorem trapResult : Obligations.TrapResult := by
  intro s
  refine ⟨fun n hc => ?trap, trapv_clear, trapv_set, fun hc => ?illegal, fun hc low => ?lineA, fun hc low => ?lineF⟩
  case trap =>
    have vector : 32 + BitVec.ofNat 8 n.val = BitVec.ofNat 8 (32 + n.val) := (BitVec.ofNat_add 32 n.val).symm
    rw [← vector] at hc ⊢
    exact execute_ok (raiseTrap_ok hc)
  case illegal | lineA | lineF => exact execute_ok (raiseUnexecuted_ok hc)

/-! ## CHK (R329; 60_exceptions.md R383) -/

section Chk

variable {dn : RegNo} {ea : Ea} {s s1 : State} {bound : Word}

/-- The flags of CHK that are left open follow a draw (decision D9). -/
def chkFlagged (n : Bool) (s : State) : State :=
  { s with draws := s.draws + 1 }.setCcr (chkFlags n (Config.free s.draws) s.ccr)

/-- Out of bounds the flags come before the entry of vector 6, which saves them. -/
theorem chk_trap_run (n : Bool) (hc : s.canEnter 6 = true) :
    (setFlags (chkFlags n (Config.free s.draws)) >>= fun _ => raiseTrap 6) { s with draws := s.draws + 1 } =
      .ok () ((chkFlagged n s).entered 6 s.pc none) :=
  raiseTrap_ok ((State.canEnter_congr rfl rfl rfl 6).trans hc)

theorem exec_chk_below (hv : readEa .w ea s = .ok bound s1) (below : (lowPart .w (s1.dreg dn)).toInt < 0)
    (hc : s1.canEnter 6 = true) : exec (.chk dn ea) s = .next ((chkFlagged true s1).entered 6 s1.pc none) :=
  execute_ok <| by
    rw [run_bind_ok hv, run_look_bind, run_draw_bind, if_pos below]
    exact chk_trap_run true hc

theorem exec_chk_above (hv : readEa .w ea s = .ok bound s1) (lower : 0 ≤ (lowPart .w (s1.dreg dn)).toInt)
    (above : bound.toInt < (lowPart .w (s1.dreg dn)).toInt) (hc : s1.canEnter 6 = true) :
    exec (.chk dn ea) s = .next ((chkFlagged false s1).entered 6 s1.pc none) :=
  execute_ok <| by
    rw [run_bind_ok hv, run_look_bind, run_draw_bind, if_neg (Int.not_lt.mpr lower), if_pos above]
    exact chk_trap_run false hc

/-- In bounds N is open as well. -/
theorem exec_chk_inside (hv : readEa .w ea s = .ok bound s1) (lower : 0 ≤ (lowPart .w (s1.dreg dn)).toInt)
    (upper : (lowPart .w (s1.dreg dn)).toInt ≤ bound.toInt) :
    exec (.chk dn ea) s = .next (chkFlagged ((Config.free s1.draws).getLsbD 0) s1) :=
  execute_ok <| by
    rw [run_bind_ok hv, run_look_bind, run_draw_bind, if_neg (Int.not_lt.mpr lower), if_neg (Int.not_lt.mpr upper)]
    rfl

end Chk

/-- Settles O47: the register's word is below 0, above the bound or between them, both ends included. -/
theorem checkBounds : Obligations.CheckBounds := by
  intro dn ea s s1 bound hv v u
  refine ⟨fun lower upper => ⟨_, _, _, _, exec_chk_inside hv lower upper⟩,
    fun below hc => ⟨_, _, _, exec_chk_below hv below hc⟩,
    fun lower above hc => ⟨_, _, _, exec_chk_above hv lower above hc⟩, fun n z o c => ?frame⟩
  case frame =>
    simpa using ((readEa_kept hv).changes.append (changes_draw s1)).append (changes_setCcr _ _)

end Sys2Proof.Machine

/-! # TAS (48_multiprocessor.md R350, R352)

The instruction is `tasRead` and then `tasWrite`. A retry request cuts one of them off in a state that the error's entry
starts from as it is: the instruction's own in the read half, the one with the flags set in the write half. -/

namespace Sys2Proof.Machine

/-! ## The flags after the entry of a bus or address error (60_exceptions.md R370, R384) -/

theorem ccrOf_entrySr (sr : Word) : ccrOf (entrySr sr none) = ccrOf sr := by simp [ccrOf, entrySr]

@[simp] theorem State.errorEntered_sr (s : State) (e : AccessError) (pc : Long) (ir : Word) (addr : Long)
    (access : Word) : (s.errorEntered e pc ir addr access).sr = entrySr s.sr none := by
  simp [State.errorEntered, State.errorFramed, State.errorRaised]

/-- The entry's own step on SR is all that happens to it where no flag had changed. -/
theorem accessErrorTaken_unchanged_sr {s t : State} {e : AccessError} {cyc : Cycle} {p : Progress}
    (hc : s.canFrame e = true) (h : accessErrorTaken s s e cyc false p = .next t) : t.sr = entrySr s.sr none := by
  have blended : blend s s = { s with draws := s.draws + 1 } := by
    simpa only [setCcr_ccr_self, blendCcr_self] using blend_setCcr s s.ccr
  have frame : (blend s s).canFrame e = true := by rw [blended, ← hc]; exact canFrame_congr rfl rfl rfl e
  simp only [accessErrorTaken, enterAccessError_ok frame, Host.Outcome.next.injEq] at h
  rw [← h, State.errorEntered_sr, blended]

/-- An instruction cut off by an error in the state that a cut-off part may leave: the entry finds that state, flags
included. -/
theorem finish_error_unchanged {s : State} {e : AccessError} (hm : s.platform.memMap = []) (hc : s.canFrame e = true)
    (cyc : Cycle) :
    ∃ t, finish s (.error (.access e cyc false) s) = .next t ∧ t.ccr = s.ccr ∧
      ErrorEntry s s.sr e cyc (.instruction (s.pc - 2)) t := by
  obtain ⟨t, ht, entry⟩ := accessErrorTaken_unchanged hm hc cyc (.instruction (s.pc - 2))
  refine ⟨t, ht, ?_, entry⟩
  rw [State.ccr, accessErrorTaken_unchanged_sr hc ht, ccrOf_entrySr, State.ccr]

/-! ## The halves of the cycle (R350, R352) -/

section Operand

variable {ea : Ea} {s s1 : State} {a : Long}

theorem tasRead_ok (ha : eaAddr .b ea s = .ok a s1) (hn : s1.retries (.reading s1.dataFc a false) = false)
    (hr : s1.canRead s1.dataFc a .b = true) :
    let d := s1.byteAt s1.dataFc a
    tasRead ea s = .ok (a, d ||| 0x80) (s1.setCcr (moveFlags s1.ccr d)) := by
  intro d
  unfold tasRead
  rw [run_bind_ok ha, run_look_bind, run_bind_ok (neverRetried_ok hn), run_bind_ok (readByte_ok hr), run_setFlags_bind,
    run_pure]

theorem tasRead_retried (ha : eaAddr .b ea s = .ok a s1) (hq : s1.resetIn = none)
    (h : s1.retries (.reading s1.dataFc a false) = true) :
    tasRead ea s = .error (.access .busError (.reading s1.dataFc a false) false) s1 := by
  unfold tasRead
  rw [run_bind_ok ha, run_look_bind, run_bind_error (neverRetried_retried hq h)]

theorem tasWrite_ok {v : Byte} (hn : s.retries (.writing s.dataFc a false (v.setWidth 16)) = false)
    (hs : s.canStore s.dataFc a .b = true) : tasWrite a v s = .ok () (s.store s.dataFc a .b v) := by
  unfold tasWrite
  rw [run_look_bind, run_bind_ok (neverRetried_ok hn)]
  exact writeByte_ok hs

theorem tasWrite_retried {v : Byte} (hq : s.resetIn = none)
    (h : s.retries (.writing s.dataFc a false (v.setWidth 16)) = true) :
    tasWrite a v s = .error (.access .busError (.writing s.dataFc a false (v.setWidth 16)) false) s := by
  unfold tasWrite
  rw [run_look_bind, run_bind_error (neverRetried_retried hq h)]

/-! ## The forms in a register and in memory (R350, R351) -/

theorem exec_tas_register (n : RegNo) (s : State) :
    let d : Byte := lowPart .b (s.dreg n)
    exec (.tas (.dn n)) s = .next ((s.setCcr (moveFlags s.ccr d)).setDlow n .b (d ||| 0x80)) :=
  execute_ok (modifyEa_dn (sz := .b) (f := fun d => setFlags (moveFlags · d) >>= fun _ => pure (d ||| 0x80)) rfl)

theorem exec_tas_eq_tasMemory (hm : ea.isMemAlterable = true) : exec (.tas ea) s = tasMemory ea s := by
  cases ea with
  | dn | an | pcDisp | pcIndex | imm => simp [Ea.isMemAlterable, Ea.isMemory, Ea.isAlterable] at hm
  | _ => rfl

theorem tasMemory_read_ok {v : Byte} (h : tasRead ea s = .ok (a, v) s1) :
    tasMemory ea s = finish { s with sr := s1.sr } (tasWrite a v s1) := by
  simp only [tasMemory, h]

theorem tasMemory_read_error {x : Abort} (h : tasRead ea s = .error x s1) :
    tasMemory ea s = finish s (.error x s1) := by
  simp only [tasMemory, h]

theorem exec_tas_memory (hm : ea.isMemAlterable = true) (ha : eaAddr .b ea s = .ok a s1)
    (hr : s1.canRead s1.dataFc a .b = true) (hs : s1.canStore s1.dataFc a .b = true)
    (hn : s1.unretried s1.dataFc a = true) :
    let d := s1.byteAt s1.dataFc a
    exec (.tas ea) s = .next ((s1.setCcr (moveFlags s1.ccr d)).store s1.dataFc a .b (d ||| 0x80)) := by
  intro d
  let s2 := s1.setCcr (moveFlags s1.ccr d)
  have fc : s2.dataFc = s1.dataFc := State.setCcr_dataFc s1 _
  have write : tasWrite a (d ||| 0x80) s2 = .ok () (s2.store s1.dataFc a .b (d ||| 0x80)) := by
    rw [← fc]
    refine tasWrite_ok ?_ ?_
    · rw [fc, State.retries_congr (State.setCcr_platform s1 _), State.unretried_write hn]
    · rw [fc, State.setCcr_canStore, hs]
  rw [exec_tas_eq_tasMemory hm, tasMemory_read_ok (tasRead_ok ha (State.unretried_read hn) hr), write, finish]

end Operand

/-! ## A retry request (R352; log 26) -/

theorem eaAddr_ind_ok (sz : Size) (n : RegNo) (s : State) : eaAddr sz (.ind n) s = .ok (s.areg n) s := rfl

section Retried

variable {n : RegNo} {s : State}

/-- A retry request in the read half: nothing has changed. -/
theorem exec_tas_read_retried (hm : s.platform.memMap = []) (hc : s.canFrame .busError = true)
    (h : s.retries (.reading s.dataFc (s.areg n) false) = true) :
    ∃ t, exec (.tas (.ind n)) s = .next t ∧ t.ccr = s.ccr ∧
      ErrorEntry s s.sr .busError (.reading s.dataFc (s.areg n) false) (.instruction (s.pc - 2)) t := by
  rw [exec_tas_eq_tasMemory rfl, tasMemory_read_error (tasRead_retried (eaAddr_ind_ok .b n s) (canFrame_quiet hc) h)]
  exact finish_error_unchanged hm hc _

/-- A retry request in the write half: the flags have been set, and the entry starts from the state with them,
which it saves. -/
theorem exec_tas_write_retried (hm : s.platform.memMap = []) (hc : s.canFrame .busError = true)
    (hn : s.retries (.reading s.dataFc (s.areg n) false) = false) (hr : s.canRead s.dataFc (s.areg n) .b = true) :
    let d := s.byteAt s.dataFc (s.areg n)
    let cyc := Cycle.writing s.dataFc (s.areg n) false ((d ||| 0x80).setWidth 16)
    s.retries cyc = true → ∃ t, exec (.tas (.ind n)) s = .next t ∧ t.ccr = moveFlags s.ccr d ∧
      ErrorEntry s (s.setCcr (moveFlags s.ccr d)).sr .busError cyc (.instruction (s.pc - 2)) t := by
  intro d cyc h
  let s2 := s.setCcr (moveFlags s.ccr d)
  have fc : s2.dataFc = s.dataFc := State.setCcr_dataFc s _
  have frame : s2.canFrame .busError = true := (canFrame_congr rfl rfl rfl _).trans hc
  have cut : tasWrite (s.areg n) (d ||| 0x80) s2 = .error (.access .busError cyc false) s2 := by
    have retried : s2.retries cyc = true := (State.retries_congr rfl cyc).trans h
    rw [tasWrite_retried (canFrame_quiet frame) (by rw [fc]; exact retried), fc]
  obtain ⟨t, ht, flags, entry⟩ := finish_error_unchanged (s := s2) hm frame cyc
  refine ⟨t, ?_, flags.trans (State.setCcr_ccr s _),
    entry.of_agreeing (kept_setCcr s _) ⟨rfl, rfl, rfl⟩ rfl rfl⟩
  rw [exec_tas_eq_tasMemory rfl, tasMemory_read_ok (tasRead_ok (eaAddr_ind_ok .b n s) hn hr), cut]
  exact ht

end Retried

/-- Settles O40: the register form and the memory form complete; the halves that a retry request cuts off enter the bus
error from the state with the flags of before, or with those of the byte read. -/
theorem testAndSetResult : Obligations.TestAndSetResult := by
  refine ⟨?register, ?memory, ?retried⟩
  case register =>
    intro n s d t
    exact ⟨exec_tas_register n s, (OperandKept.refl [] s).changes_setDlow _ n .b _⟩
  case memory =>
    intro ea s s1 a hm ha hr hs hn d t
    exact ⟨exec_tas_memory hm ha hr hs hn, (eaAddr_kept ha).changes_store _ _ a .b _⟩
  case retried =>
    intro n s hm hc a d others
    refine ⟨fun h => ?read, fun hn hr h => ?write⟩
    case read =>
      obtain ⟨t, ht, flags, entry⟩ := exec_tas_read_retried hm hc h
      have taken := entry.taken
      rw [accessBits_reading_data] at taken
      exact ⟨t, ht, flags, entry.registers, taken⟩
    case write =>
      obtain ⟨t, ht, flags, entry⟩ := exec_tas_write_retried hm hc hn hr h
      have taken := entry.taken
      rw [accessBits_writing_data] at taken
      exact ⟨t, ht, flags, entry.registers, taken⟩

end Sys2Proof.Machine

/-! # A user-mode instruction is confined (60_exceptions.md R360, R361, R370)

What an instruction does outside exception processing leaves the system state, whether it completes or is cut off; what
exception processing does raises SR once and leaves the rest of the system state. -/

namespace Sys2Proof.Machine

/-! ## What every computation outside exception processing keeps

Stated of the state in which the computation ends, so that it holds of one that is cut off too. -/

section SystemKept

variable {r : State}

/-- `SystemKept` does not speak of PC, the noted words, memory, the free draws and the bus cycles until a reset. -/
theorem systemKept_unspoken (s : State) (pc : Long) (stale : List (Nat × Word)) (mem : Memory) (draws : Nat)
    (resetIn : Option Nat) :
    SystemKept s { s with pc := pc, stale := stale, mem := mem, draws := draws, resetIn := resetIn } := by
  apply SystemKept.of_fields <;> rfl

theorem systemKept_setAreg (s : State) (n : RegNo) (v : Long) : SystemKept s (s.setAreg n v) :=
  (kept_setAreg s n v).rest

theorem systemKept_setDlow (s : State) (n : RegNo) (sz : Size) (v : BitVec sz.bits) : SystemKept s (s.setDlow n sz v) :=
  (kept_setDlow s n sz v).rest

theorem systemKept_setDreg (s : State) (n : RegNo) (v : Long) : SystemKept s (s.setDreg n v) :=
  (kept_setDreg s n v).rest

theorem systemKept_setCcr (s : State) (f : Ccr) : SystemKept s (s.setCcr f) := (kept_setCcr s f).rest

theorem systemKept_jump (s : State) (a : Long) : SystemKept s (s.jump a) := (kept_jump s a).rest

theorem update_keepsSystem {f : State → State} (h : ∀ s, SystemKept s (f s)) : Keeps (SystemKept r) (update f) :=
  keeps_update fun s hs => hs.trans (h s)

theorem update_bind_keepsSystem {β : Type} {f : State → State} {g : Unit → M β} (h : ∀ s, SystemKept s (f s))
    (hg : ∀ a, Keeps (SystemKept r) (g a)) : Keeps (SystemKept r) (update f >>= g) := (update_keepsSystem h).bind hg

theorem setFlags_keepsSystem (f : Ccr → Ccr) : Keeps (SystemKept r) (setFlags f) :=
  update_keepsSystem fun s => systemKept_setCcr s _

theorem draw_keepsSystem : Keeps (SystemKept r) draw := fun _ hs => hs.trans (systemKept_unspoken ..)

/-! Bus cycles, fetches and the stack. -/

theorem countCycle_keepsSystem : Keeps (SystemKept r) countCycle := by
  intro s hs
  unfold countCycle
  split
  · exact hs
  · exact hs
  · exact hs.trans (systemKept_unspoken ..)

theorem busCycle_keepsSystem (cyc : Cycle) : Keeps (SystemKept r) (busCycle cyc) := by
  refine countCycle_keepsSystem.bind fun _ => .look_bind fun reply => ?_
  cases reply with
  | busError => exact keeps_abort _
  | silent => exact keeps_hang
  | data | readOnly | device => exact keeps_pure _

theorem fromDevice_keepsSystem (n : Nat) : Keeps (SystemKept r) (fromDevice n) :=
  draw_keepsSystem.bind fun _ => keeps_pure _

theorem alignedCycle_keepsSystem {α : Type} {cyc : Cycle} {f : Reply → M α} (hf : ∀ a, Keeps (SystemKept r) (f a)) :
    Keeps (SystemKept r) (aligned cyc >>= fun _ => busCycle cyc >>= f) :=
  (Keeps.ite (keeps_abort _) (keeps_pure _)).bind fun _ => (busCycle_keepsSystem cyc).bind hf

theorem supply_keepsSystem {n : Nat} (reply : Reply) (m : State → BitVec n) : Keeps (SystemKept r) (supply reply m) :=
  .ite (fromDevice_keepsSystem n) (keeps_look m)

theorem readByte_keepsSystem (fc : BitVec 3) (a : Long) : Keeps (SystemKept r) (readByte fc a) :=
  (busCycle_keepsSystem _).bind fun _ => supply_keepsSystem _ _

theorem readWord_keepsSystem (fc : BitVec 3) (a : Long) : Keeps (SystemKept r) (readWord fc a) :=
  alignedCycle_keepsSystem fun _ => supply_keepsSystem _ _

theorem readSized_keepsSystem (fc : BitVec 3) (a : Long) (sz : Size) : Keeps (SystemKept r) (readSized fc a sz) := by
  cases sz with
  | b => exact readByte_keepsSystem fc a
  | w => exact readWord_keepsSystem fc a
  | l => exact (readWord_keepsSystem fc _).bind fun _ => (readWord_keepsSystem fc _).bind fun _ => keeps_pure _

/-- A write notes what it replaces in the prefetch window and replaces it. -/
theorem replace_keepsSystem (fc : BitVec 3) (a : Long) (m : State → Memory) :
    Keeps (SystemKept r) (noteStale fc a >>= fun _ => update fun s => { s with mem := m s }) := by
  refine .bind (fun s hs => ?_) fun _ => update_keepsSystem fun s => systemKept_unspoken ..
  rw [noteStale_run]
  refine hs.trans ?_
  unfold State.noted
  split
  · exact systemKept_unspoken ..
  · exact SystemKept.refl s

theorem writeByte_keepsSystem (fc : BitVec 3) (a : Long) (v : Byte) : Keeps (SystemKept r) (writeByte fc a v) :=
  (busCycle_keepsSystem _).bind fun _ => .ite (replace_keepsSystem fc a _) (keeps_pure _)

theorem writeWord_keepsSystem (fc : BitVec 3) (a : Long) (v : Word) : Keeps (SystemKept r) (writeWord fc a v) :=
  alignedCycle_keepsSystem fun _ => .ite (replace_keepsSystem fc a _) (keeps_pure _)

theorem memRead_keepsSystem (sz : Size) (a : Long) : Keeps (SystemKept r) (memRead sz a) :=
  .look_bind fun _ => readSized_keepsSystem _ a sz

theorem memWrite_keepsSystem (sz : Size) (a : Long) (v : BitVec sz.bits) : Keeps (SystemKept r) (memWrite sz a v) := by
  refine .look_bind fun fc => ?_
  cases sz with
  | b => exact writeByte_keepsSystem fc a v
  | w => exact writeWord_keepsSystem fc a v
  | l => exact (writeWord_keepsSystem fc _ _).bind fun _ => writeWord_keepsSystem fc _ _

theorem fetchCell_keepsSystem (k : Nat) : Keeps (SystemKept r) (fetchCell k) := by
  intro s hs
  unfold fetchCell
  split
  · exact hs
  · exact hs.trans (systemKept_unspoken ..)

theorem fetch16_keepsSystem : Keeps (SystemKept r) fetch16 :=
  .look_bind fun _ => .look_bind fun _ => alignedCycle_keepsSystem fun _ => .look_bind fun k =>
    (Keeps.ite (fromDevice_keepsSystem 16) (fetchCell_keepsSystem k)).bind fun _ =>
      update_bind_keepsSystem (fun _ => systemKept_unspoken ..) fun _ => keeps_pure _

theorem fetch32_keepsSystem : Keeps (SystemKept r) fetch32 :=
  fetch16_keepsSystem.bind fun _ => fetch16_keepsSystem.bind fun _ => keeps_pure _

theorem push16_keepsSystem (v : Word) : Keeps (SystemKept r) (push16 v) :=
  update_bind_keepsSystem (fun s => systemKept_setAreg s _ _) fun _ => .look_bind fun _ => memWrite_keepsSystem .w _ v

theorem push32_keepsSystem (v : Long) : Keeps (SystemKept r) (push32 v) :=
  update_bind_keepsSystem (fun s => systemKept_setAreg s _ _) fun _ => .look_bind fun _ => memWrite_keepsSystem .l _ v

theorem pop16_keepsSystem : Keeps (SystemKept r) pop16 :=
  .look_bind fun _ => (memRead_keepsSystem .w _).bind fun _ =>
    update_bind_keepsSystem (fun s => systemKept_setAreg s _ _) fun _ => keeps_pure _

theorem pop32_keepsSystem : Keeps (SystemKept r) pop32 :=
  .look_bind fun _ => (memRead_keepsSystem .l _).bind fun _ =>
    update_bind_keepsSystem (fun s => systemKept_setAreg s _ _) fun _ => keeps_pure _

/-! Operands (30_encoding.md R125 to R128). -/

theorem fetchIndex_keepsSystem : Keeps (SystemKept r) fetchIndex := fetch16_keepsSystem.bind fun _ => keeps_look _

theorem eaAddr_keepsSystem (sz : Size) (ea : Ea) : Keeps (SystemKept r) (eaAddr sz ea) := by
  cases ea with
  | ind n => exact keeps_look _
  | post n =>
    exact .look_bind fun _ => update_bind_keepsSystem (fun s => systemKept_setAreg s _ _) fun _ => keeps_pure _
  | pre n => exact update_bind_keepsSystem (fun s => systemKept_setAreg s _ _) fun _ => keeps_look _
  | disp n => exact fetch16_keepsSystem.bind fun _ => keeps_look _
  | index n => exact fetchIndex_keepsSystem.bind fun _ => keeps_look _
  | absW => exact fetch16_keepsSystem.bind fun _ => keeps_pure _
  | absL => exact fetch32_keepsSystem
  | pcDisp => exact .look_bind fun _ => fetch16_keepsSystem.bind fun _ => keeps_pure _
  | pcIndex => exact .look_bind fun _ => fetchIndex_keepsSystem.bind fun _ => keeps_pure _
  | dn | an | imm => exact keeps_abort _

theorem fetchImm_keepsSystem (sz : Size) : Keeps (SystemKept r) (fetchImm sz) := by
  cases sz with
  | b => exact fetch16_keepsSystem.bind fun _ => keeps_pure _
  | w => exact fetch16_keepsSystem
  | l => exact fetch32_keepsSystem

theorem readMemEa_keepsSystem (sz : Size) (ea : Ea) : Keeps (SystemKept r) (readMemEa sz ea) :=
  (eaAddr_keepsSystem sz ea).bind fun a => .look_bind fun _ => readSized_keepsSystem _ a sz

theorem readEa_keepsSystem (sz : Size) (ea : Ea) : Keeps (SystemKept r) (readEa sz ea) := by
  cases ea with
  | dn n => exact keeps_look _
  | an n => exact .ite (keeps_abort _) (keeps_look _)
  | imm => exact fetchImm_keepsSystem sz
  | ind | post | pre | disp | index | absW | absL | pcDisp | pcIndex => exact readMemEa_keepsSystem sz _

theorem writeEa_keepsSystem (sz : Size) (ea : Ea) (v : BitVec sz.bits) : Keeps (SystemKept r) (writeEa sz ea v) := by
  cases ea with
  | dn n => exact update_keepsSystem fun s => systemKept_setDlow s n sz v
  | an n => exact update_keepsSystem fun s => systemKept_setAreg s n _
  | pcDisp | pcIndex | imm => exact keeps_abort _
  | ind | post | pre | disp | index | absW | absL =>
    exact (eaAddr_keepsSystem sz _).bind fun a => memWrite_keepsSystem sz a v

theorem modifyEa_keepsSystem {sz : Size} (ea : Ea) {f : BitVec sz.bits → M (BitVec sz.bits)}
    (hf : ∀ v, Keeps (SystemKept r) (f v)) : Keeps (SystemKept r) (modifyEa sz ea f) := by
  cases ea with
  | dn n =>
    exact .look_bind fun v => (hf v).bind fun _ => update_keepsSystem fun s => systemKept_setDlow s n sz _
  | an | pcDisp | pcIndex | imm => exact keeps_abort _
  | ind | post | pre | disp | index | absW | absL =>
    exact (eaAddr_keepsSystem sz _).bind fun a => (memRead_keepsSystem sz a).bind fun v => (hf v).bind fun w =>
      memWrite_keepsSystem sz a w


/-! Results with their flags, and the shapes shared by several instructions. -/

/-- Flags set and a result answered, which is what most operations are. -/
theorem flagged_keepsSystem {α : Type} (f : Ccr → Ccr) (a : α) :
    Keeps (SystemKept r) (setFlags f >>= fun _ => pure a) := (setFlags_keepsSystem f).bind fun _ => keeps_pure a

theorem addResult_keepsSystem {n : Nat} (d v : BitVec n) : Keeps (SystemKept r) (addResult d v) :=
  flagged_keepsSystem _ _

theorem subResult_keepsSystem {n : Nat} (d v : BitVec n) : Keeps (SystemKept r) (subResult d v) :=
  flagged_keepsSystem _ _

theorem addxResult_keepsSystem {n : Nat} (d v : BitVec n) : Keeps (SystemKept r) (addxResult d v) :=
  .look_bind fun _ => flagged_keepsSystem _ _

theorem subxResult_keepsSystem {n : Nat} (d v : BitVec n) : Keeps (SystemKept r) (subxResult d v) :=
  .look_bind fun _ => flagged_keepsSystem _ _

theorem logicResult_keepsSystem {n : Nat} (v : BitVec n) : Keeps (SystemKept r) (logicResult v) :=
  flagged_keepsSystem _ _

theorem shiftResult_keepsSystem {n : Nat} (op : ShiftOp) (k : Nat) (v : BitVec n) :
    Keeps (SystemKept r) (shiftResult op k v) := .look_bind fun _ => flagged_keepsSystem _ _

theorem bitResult_keepsSystem {n : Nat} (op : BitOp) (v : BitVec n) (k : Nat) :
    Keeps (SystemKept r) (bitResult op v k) := flagged_keepsSystem _ _

theorem decimalResult_keepsSystem (valid : Bool) (o : Byte × Bool) : Keeps (SystemKept r) (decimalResult valid o) :=
  draw_keepsSystem.bind fun _ => .ite (flagged_keepsSystem _ _) (flagged_keepsSystem _ _)

theorem decimalAdd_keepsSystem (d v : Byte) : Keeps (SystemKept r) (decimalAdd d v) :=
  .look_bind fun _ => decimalResult_keepsSystem _ _

theorem decimalSub_keepsSystem (d v : Byte) : Keeps (SystemKept r) (decimalSub d v) :=
  .look_bind fun _ => decimalResult_keepsSystem _ _

section Shapes

variable {sz : Size} {f : BitVec sz.bits → BitVec sz.bits → M (BitVec sz.bits)}

theorem eaToDn_keepsSystem (dn : RegNo) (ea : Ea) (hf : ∀ d v, Keeps (SystemKept r) (f d v)) :
    Keeps (SystemKept r) (eaToDn sz dn ea f) :=
  (readEa_keepsSystem sz ea).bind fun v => .look_bind fun d => (hf d v).bind fun _ =>
    update_keepsSystem fun s => systemKept_setDlow s dn sz _

theorem dnToEa_keepsSystem (dn : RegNo) (ea : Ea) (hf : ∀ d v, Keeps (SystemKept r) (f d v)) :
    Keeps (SystemKept r) (dnToEa sz dn ea f) :=
  modifyEa_keepsSystem ea fun d => .look_bind fun v => hf d v

theorem immToEa_keepsSystem (ea : Ea) (hf : ∀ d v, Keeps (SystemKept r) (f d v)) :
    Keeps (SystemKept r) (immToEa sz ea f) :=
  (fetchImm_keepsSystem sz).bind fun v => modifyEa_keepsSystem ea fun d => hf d v

theorem pairOp_keepsSystem (m : PairMode) (x y : RegNo) (hf : ∀ d v, Keeps (SystemKept r) (f d v)) :
    Keeps (SystemKept r) (pairOp sz m x y f) := by
  cases m with
  | regs =>
    exact .look_bind fun v => .look_bind fun d => (hf d v).bind fun _ =>
      update_keepsSystem fun s => systemKept_setDlow s x sz _
  | mem =>
    exact (eaAddr_keepsSystem sz _).bind fun ay => (memRead_keepsSystem sz ay).bind fun v =>
      (eaAddr_keepsSystem sz _).bind fun ax => (memRead_keepsSystem sz ax).bind fun d => (hf d v).bind fun w =>
        memWrite_keepsSystem sz ax w

end Shapes

theorem shiftReg_keepsSystem (op : ShiftOp) (sz : Size) (cnt : ShiftCount) (dn : RegNo) :
    Keeps (SystemKept r) (shiftReg op sz cnt dn) :=
  .look_bind fun k => .look_bind fun v => (shiftResult_keepsSystem op k v).bind fun _ =>
    update_keepsSystem fun s => systemKept_setDlow s dn sz _

theorem shiftMem_keepsSystem (op : ShiftOp) (ea : Ea) : Keeps (SystemKept r) (shiftMem op ea) :=
  modifyEa_keepsSystem ea fun v => shiftResult_keepsSystem op 1 v

theorem bitModify_keepsSystem (op : BitOp) (number : Nat) (ea : Ea) :
    Keeps (SystemKept r) (bitModify op number ea) := by
  cases ea with
  | dn n => exact modifyEa_keepsSystem (sz := .l) (.dn n) fun v => bitResult_keepsSystem op v (number % 32)
  | _ =>
    simp only [bitModify]
    exact modifyEa_keepsSystem (sz := .b) _ fun v => bitResult_keepsSystem op v (number % 8)

theorem bitTest_keepsSystem (number : Nat) (ea : Ea) : Keeps (SystemKept r) (bitTest number ea) := by
  have test (sz : Size) (ea : Ea) (k : Nat) :
      Keeps (SystemKept r) (readEa sz ea >>= fun v => bitResult .tst v k >>= fun _ => pure ()) :=
    (readEa_keepsSystem sz ea).bind fun v => (bitResult_keepsSystem .tst v k).bind fun _ => keeps_pure _
  cases ea with
  | dn n => exact test .l _ _
  | _ => exact test .b _ _

theorem fetchBitNumber_keepsSystem : Keeps (SystemKept r) fetchBitNumber :=
  fetch16_keepsSystem.bind fun _ => keeps_pure _

theorem branchTarget_keepsSystem (disp : Byte) : Keeps (SystemKept r) (branchTarget disp) :=
  .look_bind fun _ => .ite (fetch16_keepsSystem.bind fun _ => keeps_pure _) (keeps_pure _)

/-- The end of a change of flow. -/
theorem jump_keepsSystem (a : Long) : Keeps (SystemKept r) (update fun s => s.jump a) :=
  update_keepsSystem fun s => systemKept_jump s a

/-! The transfers of MOVEM and MOVEP, by induction on the registers and the bytes still to come. -/

theorem movemStore_keepsSystem (sz : Size) (mask : Word) (is : List (Fin 16)) (a : Long) :
    Keeps (SystemKept r) (movemStore sz mask is a) := by
  induction is generalizing a with
  | nil => exact keeps_pure _
  | cons i is ih => exact .ite (.look_bind fun v => (memWrite_keepsSystem sz a v).bind fun _ => ih _) (ih a)

theorem movemStoreDown_keepsSystem (sz : Size) (mask : Word) (is : List (Fin 16)) (a : Long) :
    Keeps (SystemKept r) (movemStoreDown sz mask is a) := by
  induction is generalizing a with
  | nil => exact keeps_pure _
  | cons i is ih => exact .ite (.look_bind fun v => (memWrite_keepsSystem sz _ v).bind fun _ => ih _) (ih a)

theorem movemLoad_keepsSystem (fc : BitVec 3) (sz : Size) (mask : Word) (is : List (Fin 16)) (a : Long) :
    Keeps (SystemKept r) (movemLoad fc sz mask is a) := by
  induction is generalizing a with
  | nil => exact keeps_pure _
  | cons i is ih =>
    exact .ite ((readSized_keepsSystem fc a sz).bind fun v =>
      update_bind_keepsSystem (fun s => systemKept_setRreg s i _) fun _ => ih _) (ih a)

theorem movepLoad_keepsSystem (dn : RegNo) (ks : List Nat) (a : Long) : Keeps (SystemKept r) (movepLoad dn ks a) := by
  induction ks generalizing a with
  | nil => exact keeps_pure _
  | cons k ks ih =>
    exact (memRead_keepsSystem .b a).bind fun _ =>
      update_bind_keepsSystem (fun s => systemKept_setDreg s dn _) fun _ => ih _

theorem movepStore_keepsSystem (dn : RegNo) (ks : List Nat) (a : Long) : Keeps (SystemKept r) (movepStore dn ks a) := by
  induction ks generalizing a with
  | nil => exact keeps_pure _
  | cons k ks ih => exact .look_bind fun b => (memWrite_keepsSystem .b a b).bind fun _ => ih _

/-! The halves of TAS (48_multiprocessor.md R350, R352). -/

theorem neverRetried_keepsSystem (cyc : Cycle) : Keeps (SystemKept r) (neverRetried cyc) :=
  .look_bind fun _ => .ite (countCycle_keepsSystem.bind fun _ => keeps_abort _) (keeps_pure _)

theorem tasRead_keepsSystem (ea : Ea) : Keeps (SystemKept r) (tasRead ea) :=
  (eaAddr_keepsSystem .b ea).bind fun a => .look_bind fun fc => (neverRetried_keepsSystem _).bind fun _ =>
    (readByte_keepsSystem fc a).bind fun _ => flagged_keepsSystem _ _

theorem tasWrite_keepsSystem (a : Long) (v : Byte) : Keeps (SystemKept r) (tasWrite a v) :=
  .look_bind fun fc => (neverRetried_keepsSystem _).bind fun _ => writeByte_keepsSystem fc a v

end SystemKept

/-! ## The vector fetch (60_exceptions.md R365, R367) -/

/-- No device answers the fetch of a vector. -/
def State.vectorsInMemory (s : State) : Prop :=
  ∀ (n : Byte) (k : Long), k = 0 ∨ k = 2 → s.answer (.reading 5 (vectorAddr n + k) true) ≠ .device

/-- PC is what a vector holds. -/
def State.atVector (s : State) : Prop := ∃ n, s.pc = s.load 5 (vectorAddr n) .l

theorem State.vectorsInMemory_congr {s t : State} (hp : t.platform = s.platform) (h : s.vectorsInMemory) :
    t.vectorsInMemory := fun n k hk => by
  rw [State.answer_congr hp]
  exact h n k hk

/-- A cycle that ends was answered as the platform's parameters say. -/
theorem busCycle_answer {s t : State} {cyc : Cycle} {reply : Reply} (h : busCycle cyc s = .ok reply t) :
    reply = s.answer cyc := by
  unfold busCycle at h
  obtain ⟨_, s1, h1, h2⟩ := run_bind_eq_ok h
  obtain ⟨n, e⟩ := countCycle_state h1
  have same : s1.answer cyc = s.answer cyc := State.answer_congr (by rw [e]) cyc
  rw [run_look_bind] at h2
  rw [← same]
  cases hr : s1.answer cyc <;> simp_all [hang]

/-- A word read that completes and that no device answers finds memory's word. -/
theorem readWord_found {s t : State} {fc : BitVec 3} {a : Long} {w : Word} (h : readWord fc a s = .ok w t)
    (hd : s.answer (.reading fc a true) ≠ .device) : w = s.wordAt fc a ∧ ∃ n, t = { s with resetIn := n } := by
  unfold readWord at h
  cases he : evenAddr a with
  | false => rw [run_bind_error (aligned_odd he)] at h; simp at h
  | true =>
    rw [run_bind_ok (aligned_even he)] at h
    obtain ⟨reply, s1, hb, hs⟩ := run_bind_eq_ok h
    obtain rfl := busCycle_answer hb
    obtain ⟨n, rfl⟩ := busCycle_state hb
    rw [supply_memory _ _ hd] at hs
    obtain ⟨rfl, rfl⟩ : _ ∧ _ := by simpa only [EStateM.Result.ok.injEq] using hs
    exact ⟨rfl, n, rfl⟩

theorem readLong_found {s t : State} {fc : BitVec 3} {a v : Long} (h : readLong fc a s = .ok v t)
    (hd : ∀ k : Long, k = 0 ∨ k = 2 → s.answer (.reading fc (a + k) true) ≠ .device) :
    v = s.load fc a .l ∧ ∃ n, t = { s with resetIn := n } := by
  unfold readLong at h
  obtain ⟨hi, s1, h1, h2⟩ := run_bind_eq_ok h
  obtain ⟨rfl, n, rfl⟩ := readWord_found h1 (by simpa using hd 0 (.inl rfl))
  obtain ⟨lo, s2, h3, h4⟩ := run_bind_eq_ok h2
  obtain ⟨rfl, n', rfl⟩ := readWord_found h3 (hd 2 (.inr rfl))
  obtain ⟨rfl, rfl⟩ : _ ∧ _ := by simpa only [run_pure, EStateM.Result.ok.injEq] using h4
  exact ⟨rfl, n', rfl⟩

/-- An entry's last step, in supervisor mode: PC is what the vector holds. -/
theorem enterHandler_atVector {s t : State} {n : Byte} (hs : s.supervisor = true) (hv : s.vectorsInMemory)
    (h : enterHandler n s = .ok () t) : t.atVector := by
  unfold enterHandler at h
  obtain ⟨v, s1, h1, h2⟩ := run_bind_eq_ok h
  have read : readLong 5 (vectorAddr n) s = .ok v s1 := by rw [← dataFc_supervisor hs]; exact h1
  obtain ⟨rfl, k, rfl⟩ := readLong_found read (hv n)
  obtain rfl : _ = t := by simpa only [run_update, EStateM.Result.ok.injEq, true_and] using h2
  exact ⟨n, rfl⟩

/-! ## Exception processing (60_exceptions.md R370, R384) -/

/-- From every state with the system state of `r` the computation ends in one, and where it completes PC is what a
vector holds. -/
def StartsHandler (r : State) (m : M Unit) : Prop :=
  Keeps (SystemKept r) m ∧ ∀ s t, SystemKept r s → m s = .ok () t → t.atVector

section StartsHandler

variable {r : State}

theorem StartsHandler.bind {α : Type} {m : M α} {f : α → M Unit} (hm : Keeps (SystemKept r) m)
    (hf : ∀ a, StartsHandler r (f a)) : StartsHandler r (m >>= f) := by
  refine ⟨hm.bind fun a => (hf a).1, fun s t hs h => ?_⟩
  obtain ⟨a, s1, h1, h2⟩ := run_bind_eq_ok h
  exact (hf a).2 s1 t (hm.of_ok hs h1) h2

theorem startsHandler_enterHandler (hs : r.supervisor = true) (hv : r.vectorsInMemory) (n : Byte) :
    StartsHandler r (enterHandler n) :=
  ⟨(memRead_keepsSystem .l _).bind fun _ => jump_keepsSystem _,
    fun _ _ kept => enterHandler_atVector (kept.supervisor.trans hs) (State.vectorsInMemory_congr kept.platform hv)⟩

end StartsHandler

/-- In the course of exception processing that does not change the mask: S set, T clear. -/
structure Entered (s t : State) : Prop where
  supervisor : t.supervisor = true
  tracing : t.tracing = false
  mask : t.mask = s.mask
  platform : t.platform = s.platform
  run : t.run = .running

theorem SystemKept.tracing {s t : State} (h : SystemKept s t) : t.tracing = s.tracing := by
  have bit := congrArg (·.getLsbD 10) h.system
  simpa only [BitVec.getLsbD_extractLsb', Nat.reduceAdd, Nat.reduceLT, decide_true, Bool.true_and,
    State.tracing] using bit

theorem SystemKept.mask {s t : State} (h : SystemKept s t) : t.mask = s.mask := by
  rw [State.mask, State.mask, ← mask_of_system, h.system, mask_of_system]

/-- What follows an entry's first step keeps what that step has set. -/
theorem Entered.of_systemKept {s u r t : State} (hm : u.mask = s.mask) (hp : u.platform = s.platform)
    (hsr : r.sr = entrySr u.sr none) (hrun : r.run = .running) (hrp : r.platform = u.platform) (h : SystemKept r t) :
    Entered s t where
  supervisor := by rw [h.supervisor, State.supervisor, hsr, entrySr_supervisor]
  tracing := by rw [h.tracing, State.tracing, hsr, entrySr_trace]
  mask := by rw [h.mask, State.mask, hsr, entrySr_mask, ← hm, State.mask]
  platform := by rw [h.platform, hrp, hp]
  run := by rw [h.run, hrun]

theorem finalState_inException {α : Type} (m : M α) (s : State) : finalState (inException m s) = finalState (m s) := by
  unfold inException
  cases m s with
  | ok a t => rfl
  | error x t => cases x <;> rfl

/-- An exception's processing whose first steps lead to the state `r` with SR raised, and which from there starts a
handler, enters the exception whether it completes or is cut off. -/
theorem entered_of_startsHandler {m m' : M Unit} {s u r : State} (hm : u.mask = s.mask)
    (hp : u.platform = s.platform) (first : m u = m' r) (hsr : r.sr = entrySr u.sr none) (hrun : r.run = .running)
    (hrp : r.platform = u.platform) (rest : StartsHandler r m') :
    Entered s (finalState (inException m u)) ∧ ∀ t, inException m u = .ok () t → t.atVector := by
  rw [finalState_inException, first]
  refine ⟨.of_systemKept hm hp hsr hrun hrp (rest.1 r (SystemKept.refl r)), fun t h => ?_⟩
  exact rest.2 r t (SystemKept.refl r) (first ▸ inException_eq_ok h)

section Entering

variable {s u : State} (hm : u.mask = s.mask) (hp : u.platform = s.platform) (hv : s.vectorsInMemory)
include hm hp hv

theorem enterException_entered (n : Byte) (pc : Long) :
    Entered s (finalState (enterException n pc none u)) ∧
      ∀ t, enterException n pc none u = .ok () t → t.atVector := by
  have vectors : (u.raised none).vectorsInMemory := State.vectorsInMemory_congr hp hv
  have supervisor : (u.raised none).supervisor = true := entrySr_supervisor u.sr none
  have frame : StartsHandler (u.raised none) (push32 pc >>= fun _ => push16 u.sr >>= fun _ => enterHandler n) :=
    .bind (push32_keepsSystem pc) fun _ => .bind (push16_keepsSystem u.sr) fun _ =>
      startsHandler_enterHandler supervisor vectors n
  unfold enterException
  refine entered_of_startsHandler (r := u.raised none) hm hp ?_ rfl rfl rfl frame
  rw [run_look_bind, run_update_bind]
  rfl

theorem enterAccessError_entered (e : AccessError) (cyc : Cycle) (inExc : Bool) (p : Progress) :
    Entered s (finalState (enterAccessError e cyc inExc p u)) ∧
      ∀ t, enterAccessError e cyc inExc p u = .ok () t → t.atVector := by
  have vectors : u.errorRaised.vectorsInMemory := State.vectorsInMemory_congr hp hv
  have supervisor : u.errorRaised.supervisor = true := entrySr_supervisor u.sr none
  have frame (pc : Long) (saved ir access : Word) : StartsHandler u.errorRaised (push32 pc >>= fun _ =>
      push16 saved >>= fun _ => push16 ir >>= fun _ => push32 cyc.addr >>= fun _ => push16 access >>= fun _ =>
        enterHandler e.vector) :=
    .bind (push32_keepsSystem pc) fun _ => .bind (push16_keepsSystem saved) fun _ =>
      .bind (push16_keepsSystem ir) fun _ => .bind (push32_keepsSystem cyc.addr) fun _ =>
        .bind (push16_keepsSystem access) fun _ =>
          startsHandler_enterHandler supervisor vectors e.vector
  unfold enterAccessError
  refine entered_of_startsHandler (r := u.errorRaised) hm hp ?_ rfl rfl rfl
    (frame (framePc p (Config.free u.draws)) u.sr (frameIr p inExc u.ir (Config.free (u.draws + 1)))
      (accessWord cyc inExc (Config.free (u.draws + 2))))
  simp only [run_look_bind, run_update_bind, run_draw_bind]
  rfl

end Entering

/-! ## How an instruction begun in user mode may end (R360, R361) -/

/-- The ways in which the machine may be left: cut off by a reset, with the system byte as before, or by an exception
entry, which a double bus fault may have halted. -/
def Confined (s t : State) : Prop :=
  t.resetIn = some 0 ∨
  (t.sr.extractLsb' 5 11 = s.sr.extractLsb' 5 11 ∧ t.run = .running) ∨
  (t.supervisor = true ∧ t.tracing = false ∧ t.mask = s.mask ∧ (t.run = .halted ∨ (t.run = .running ∧ t.atVector)))

theorem confined_of_reset {s t : State} (h : t.resetIn = some 0) : Confined s t := .inl h

theorem Entered.confined {s t : State} (h : Entered s t) (hv : t.atVector) : Confined s t :=
  .inr (.inr ⟨h.supervisor, h.tracing, h.mask, .inr ⟨h.run, hv⟩⟩)

/-- A double bus fault halts the machine where the entry has left it. -/
theorem Entered.haltFrom_confined {s t : State} (h : Entered s t) (old : State) : Confined s (haltFrom old t) :=
  .inr (.inr ⟨h.supervisor, h.tracing, h.mask, .inl rfl⟩)

theorem SystemKept.confined {s t : State} (h : SystemKept s t) (hrun : s.run = .running) : Confined s t :=
  .inr (.inl ⟨h.system, h.run.trans hrun⟩)

/-- How a computation may end: completed, with the system state as before or at a handler; cut off, with the mask as
before, which is all that the processing of the error needs. -/
def EndsConfined (s : State) : EStateM.Result Abort State Unit → Prop
  | .ok _ t => SystemKept s t ∨ Entered s t ∧ t.atVector
  | .error _ t => t.mask = s.mask ∧ t.platform = s.platform

/-- A computation that ends so from every state with the system state of `s`. -/
def Confines (s : State) (m : M Unit) : Prop := ∀ u, SystemKept s u → EndsConfined s (m u)

section Confines

variable {s : State}

theorem confines_of_keeps {m : M Unit} (h : Keeps (SystemKept s) m) : Confines s m := by
  intro u hu
  cases hm : m u with
  | ok a t => exact .inl (h.of_ok hu hm)
  | error x t =>
    have kept := h.of_error hu hm
    exact ⟨kept.mask, kept.platform⟩

theorem Confines.bind {α : Type} {m : M α} {f : α → M Unit} (hm : Keeps (SystemKept s) m) (hf : ∀ a, Confines s (f a)) :
    Confines s (m >>= f) := by
  intro u hu
  rw [run_bind]
  cases h : m u with
  | ok a t => exact hf a t (hm.of_ok hu h)
  | error x t =>
    have kept := hm.of_error hu h
    exact ⟨kept.mask, kept.platform⟩

theorem Confines.look_bind {α : Type} {f : State → α} {g : α → M Unit} (hg : ∀ a, Confines s (g a)) :
    Confines s (look f >>= g) := .bind (keeps_look f) hg

theorem Confines.ite {c : Prop} [Decidable c] {m m' : M Unit} (h : Confines s m) (h' : Confines s m') :
    Confines s (if c then m else m') := by
  split
  · exact h
  · exact h'

/-- The error of an entry leaves what the processing of the error needs. -/
theorem endsConfined_of_entered {o : EStateM.Result Abort State Unit} (final : Entered s (finalState o))
    (vector : ∀ t, o = .ok () t → t.atVector) : EndsConfined s o := by
  cases o with
  | ok a t => exact .inr ⟨final, vector t rfl⟩
  | error x t => exact ⟨final.mask, final.platform⟩

section Vectors

variable (hv : s.vectorsInMemory)
include hv

theorem enterException_endsConfined {u : State} (hm : u.mask = s.mask) (hp : u.platform = s.platform) (n : Byte)
    (pc : Long) : EndsConfined s (enterException n pc none u) := by
  obtain ⟨final, vector⟩ := enterException_entered hm hp hv n pc
  exact endsConfined_of_entered final vector

theorem raiseTrap_confines (n : Byte) : Confines s (raiseTrap n) :=
  fun _ hu => enterException_endsConfined hv hu.mask hu.platform n _

theorem raiseUnexecuted_confines (n : Byte) : Confines s (raiseUnexecuted n) := by
  intro u hu
  simp only [raiseUnexecuted, run_update_bind, run_look_bind]
  exact enterException_endsConfined (u := { u with tracePending := false }) hv hu.mask hu.platform n _

/-- In user mode a privileged instruction is the privilege violation, whatever it would do (R420). -/
theorem privileged_confines (hs : s.supervisor = false) (m : M Unit) : Confines s (privileged m) := by
  intro u hu
  rw [privileged_user (hu.supervisor.trans hs)]
  exact raiseUnexecuted_confines hv 8 u hu

/-- The processing of a bus or address error, from whatever state was cut off. -/
theorem accessErrorTaken_confined (base : State) {now : State} (hm : now.mask = s.mask) (hp : now.platform = s.platform)
    (e : AccessError) (cyc : Cycle) (inExc : Bool) (p : Progress) :
    NextMeets (Confined s) (accessErrorTaken base now e cyc inExc p) := by
  have mask : (blend base now).mask = s.mask := by
    rw [← hm, State.mask, State.mask, ← mask_of_system, ← mask_of_system now.sr]
    exact congrArg (BitVec.extractLsb' 3 3) (withCcr_system now.sr _)
  obtain ⟨final, vector⟩ := enterAccessError_entered (u := blend base now) mask hp hv e cyc inExc p
  cases h : enterAccessError e cyc inExc p (blend base now) with
  | ok a t =>
    simp only [accessErrorTaken, h]
    rw [h] at final
    exact nextMeets_next (Entered.confined final (vector t h))
  | error x t =>
    simp only [accessErrorTaken, h]
    rw [h] at final
    cases x with
    | access => exact nextMeets_next (Entered.haltFrom_confined final _)
    | reset => exact nextMeets_next (confined_of_reset rfl)
    | fault f => exact nextMeets_fault f
    | refuse x => exact nextMeets_refused x

variable (hrun : s.run = .running)
include hrun

theorem finish_confined (base : State) {o : EStateM.Result Abort State Unit} (h : EndsConfined s o) :
    NextMeets (Confined s) (finish base o) := by
  cases o with
  | ok a t =>
    rcases h with kept | ⟨entered, vector⟩
    · exact nextMeets_next (kept.confined hrun)
    · exact nextMeets_next (entered.confined vector)
  | error x t =>
    obtain ⟨mask, platform⟩ := h
    cases x with
    | access => exact accessErrorTaken_confined hv base mask platform _ _ _ _
    | reset => exact nextMeets_next (confined_of_reset rfl)
    | fault f => exact nextMeets_fault f
    | refuse x => exact nextMeets_refused x

theorem execute_confined {m : M Unit} (h : Confines s m) : NextMeets (Confined s) (execute m s) :=
  finish_confined hv hrun s (h s (SystemKept.refl s))

theorem execute_kept_confined {m : M Unit} (h : Keeps (SystemKept s) m) : NextMeets (Confined s) (execute m s) :=
  execute_confined hv hrun (confines_of_keeps h)

/-! ## Instructions with a meaning of their own -/

theorem divide_confined (dn : RegNo) (ea : Ea) (quotient : Long → Word → Option (Word × Word)) :
    NextMeets (Confined s) (execute (divide dn ea quotient) s) := by
  refine execute_confined hv hrun (.bind (readEa_keepsSystem .w ea) fun v => .ite ?zero (confines_of_keeps ?nonzero))
  case zero =>
    exact .bind draw_keepsSystem fun _ => .bind (setFlags_keepsSystem _) fun _ => raiseTrap_confines hv 5
  case nonzero =>
    refine .look_bind fun d => ?_
    cases quotient d v with
    | none => exact draw_keepsSystem.bind fun _ => setFlags_keepsSystem _
    | some qr =>
      exact (setFlags_keepsSystem _).bind fun _ => update_keepsSystem fun s => systemKept_setDreg s dn _

theorem execChk_confined (dn : RegNo) (ea : Ea) : NextMeets (Confined s) (execChk dn ea s) :=
  have trap (f : Ccr → Ccr) : Confines s (setFlags f >>= fun _ => raiseTrap 6) :=
    .bind (setFlags_keepsSystem f) fun _ => raiseTrap_confines hv 6
  execute_confined hv hrun (.bind (readEa_keepsSystem .w ea) fun _ => .look_bind fun _ =>
    .bind draw_keepsSystem fun _ => .ite (trap _) (.ite (trap _) (confines_of_keeps (setFlags_keepsSystem _))))

theorem execTas_confined (ea : Ea) : NextMeets (Confined s) (execTas ea s) := by
  have memory (ea : Ea) : NextMeets (Confined s) (tasMemory ea s) := by
    unfold tasMemory
    cases hr : tasRead ea s with
    | ok av t =>
      have kept := (tasRead_keepsSystem ea).of_ok (SystemKept.refl s) hr
      exact finish_confined hv hrun _ (confines_of_keeps (tasWrite_keepsSystem _ _) t kept)
    | error x t =>
      have kept := (tasRead_keepsSystem ea).of_error (SystemKept.refl s) hr
      exact finish_confined hv hrun s ⟨kept.mask, kept.platform⟩
  cases ea with
  | dn n => exact execute_kept_confined hv hrun (modifyEa_keepsSystem (.dn n) fun _ => flagged_keepsSystem _ _)
  | an | pcDisp | pcIndex | imm => exact nextMeets_refused _
  | ind | post | pre | disp | index | absW | absL => exact memory _

theorem execAddq_confined (sz : Size) (q : RegNo) (ea : Ea) : NextMeets (Confined s) (execAddq sz q ea s) := by
  refine execute_kept_confined hv hrun ?_
  cases ea with
  | an n => exact .ite (keeps_abort _) (update_keepsSystem fun s => systemKept_setAreg s n _)
  | _ => exact modifyEa_keepsSystem _ fun _ => addResult_keepsSystem _ _

theorem execSubq_confined (sz : Size) (q : RegNo) (ea : Ea) : NextMeets (Confined s) (execSubq sz q ea s) := by
  refine execute_kept_confined hv hrun ?_
  cases ea with
  | an n => exact .ite (keeps_abort _) (update_keepsSystem fun s => systemKept_setAreg s n _)
  | _ => exact modifyEa_keepsSystem _ fun _ => subResult_keepsSystem _ _

theorem execExt_confined (sz : Size) (dn : RegNo) : NextMeets (Confined s) (execExt sz dn s) := by
  refine execute_kept_confined hv hrun ?_
  cases sz with
  | b => exact keeps_abort _
  | w =>
    exact .look_bind fun _ => (setFlags_keepsSystem _).bind fun _ =>
      update_keepsSystem fun s => systemKept_setDlow s dn .w _
  | l =>
    exact .look_bind fun _ => (setFlags_keepsSystem _).bind fun _ =>
      update_keepsSystem fun s => systemKept_setDreg s dn _

theorem execMovemToRegs_confined (sz : Size) (ea : Ea) : NextMeets (Confined s) (execMovemToRegs sz ea s) := by
  refine execute_kept_confined hv hrun (fetch16_keepsSystem.bind fun mask => ?_)
  cases ea with
  | post n =>
    exact .look_bind fun a => .look_bind fun fc => (movemLoad_keepsSystem fc sz mask _ a).bind fun _ =>
      update_keepsSystem fun s => systemKept_setAreg s n _
  | _ =>
    exact (eaAddr_keepsSystem sz _).bind fun a => .look_bind fun fc =>
      (movemLoad_keepsSystem fc sz mask _ a).bind fun _ => keeps_pure _

theorem execBcc_confined (c : Cond) (disp : Byte) : NextMeets (Confined s) (execBcc c disp s) :=
  execute_kept_confined hv hrun ((branchTarget_keepsSystem disp).bind fun a => update_keepsSystem fun s => by
    split
    · exact systemKept_jump s a
    · exact SystemKept.refl s)

theorem execDbcc_confined (c : Cond) (dn : RegNo) : NextMeets (Confined s) (execDbcc c dn s) :=
  execute_kept_confined hv hrun ((branchTarget_keepsSystem 0).bind fun _ => .look_bind fun _ => .ite (keeps_pure _)
    (.look_bind fun _ => update_bind_keepsSystem (fun s => systemKept_setDlow s dn .w _) fun _ =>
      .ite (jump_keepsSystem _) (keeps_pure _)))

theorem execLink_confined (an : RegNo) : NextMeets (Confined s) (execLink an s) :=
  execute_kept_confined hv hrun (fetch16_keepsSystem.bind fun _ =>
    update_bind_keepsSystem (fun s => systemKept_setAreg s spReg _) fun _ => .look_bind fun _ => .look_bind fun _ =>
      (memWrite_keepsSystem .l _ _).bind fun _ => update_bind_keepsSystem (fun s => systemKept_setAreg s an _) fun _ =>
        update_keepsSystem fun s => systemKept_setAreg s spReg _)

theorem execUnlk_confined (an : RegNo) : NextMeets (Confined s) (execUnlk an s) :=
  execute_kept_confined hv hrun (update_bind_keepsSystem (fun s => systemKept_setAreg s spReg _) fun _ =>
    .look_bind fun _ => (memRead_keepsSystem .l _).bind fun _ =>
      update_bind_keepsSystem (fun s => systemKept_setAreg s an _) fun _ =>
        update_keepsSystem fun s => systemKept_setAreg s spReg _)

/-- Every instruction in user mode. The cases are grouped by the shape of the meaning: what the instruction does itself
leaves the system state, and a trap or the privilege violation enters a handler. -/
theorem exec_confined (hs : s.supervisor = false) (i : Instr) : NextMeets (Confined s) (exec i s) := by
  have kept {m : M Unit} (h : Keeps (SystemKept s) m) : NextMeets (Confined s) (execute m s) :=
    execute_kept_confined hv hrun h
  have setDreg (n : RegNo) (f : State → Long) : Keeps (SystemKept s) (update fun s => s.setDreg n (f s)) :=
    update_keepsSystem fun s => systemKept_setDreg s n (f s)
  have setAreg (n : RegNo) (f : State → Long) : Keeps (SystemKept s) (update fun s => s.setAreg n (f s)) :=
    update_keepsSystem fun s => systemKept_setAreg s n (f s)
  have writeCcr (f : State → Word) : Keeps (SystemKept s) (update fun s => s.writeCcr (f s)) :=
    update_keepsSystem fun s => systemKept_setCcr s _
  cases i with
  | oriToSr | andiToSr | eoriToSr | moveToSr | moveToUsp | moveFromUsp | reset | stop | rte =>
    exact execute_confined hv hrun (privileged_confines hv hs _)
  | illegal | lineA | lineF => exact execute_confined hv hrun (raiseUnexecuted_confines hv _)
  | trap n => exact execute_confined hv hrun (raiseTrap_confines hv _)
  | trapv =>
    exact execute_confined hv hrun (.look_bind fun _ =>
      .ite (raiseTrap_confines hv 7) (confines_of_keeps (keeps_pure _)))
  | chk dn ea => exact execChk_confined hv hrun dn ea
  | divu dn ea | divs dn ea => exact divide_confined hv hrun dn ea _
  | tas ea => exact execTas_confined hv hrun ea
  | ori sz ea | andi sz ea | eori sz ea => exact kept (immToEa_keepsSystem ea fun _ _ => logicResult_keepsSystem _)
  | addi sz ea => exact kept (immToEa_keepsSystem ea addResult_keepsSystem)
  | subi sz ea => exact kept (immToEa_keepsSystem ea subResult_keepsSystem)
  | orToDn sz dn ea | andToDn sz dn ea => exact kept (eaToDn_keepsSystem dn ea fun _ _ => logicResult_keepsSystem _)
  | addToDn sz dn ea => exact kept (eaToDn_keepsSystem dn ea addResult_keepsSystem)
  | subToDn sz dn ea => exact kept (eaToDn_keepsSystem dn ea subResult_keepsSystem)
  | orToEa sz dn ea | andToEa sz dn ea | eor sz dn ea =>
    exact kept (dnToEa_keepsSystem dn ea fun _ _ => logicResult_keepsSystem _)
  | addToEa sz dn ea => exact kept (dnToEa_keepsSystem dn ea addResult_keepsSystem)
  | subToEa sz dn ea => exact kept (dnToEa_keepsSystem dn ea subResult_keepsSystem)
  | addx sz m x y => exact kept (pairOp_keepsSystem m x y addxResult_keepsSystem)
  | subx sz m x y => exact kept (pairOp_keepsSystem m x y subxResult_keepsSystem)
  | abcd m x y => exact kept (pairOp_keepsSystem m x y decimalAdd_keepsSystem)
  | sbcd m x y => exact kept (pairOp_keepsSystem m x y decimalSub_keepsSystem)
  | neg sz ea => exact kept (modifyEa_keepsSystem ea fun _ => subResult_keepsSystem _ _)
  | negx sz ea => exact kept (modifyEa_keepsSystem ea fun _ => subxResult_keepsSystem _ _)
  | not sz ea => exact kept (modifyEa_keepsSystem ea fun _ => logicResult_keepsSystem _)
  | nbcd ea => exact kept (modifyEa_keepsSystem ea fun _ => decimalSub_keepsSystem _ _)
  | aslMem ea | asrMem ea | lslMem ea | lsrMem ea | rolMem ea | rorMem ea | roxlMem ea | roxrMem ea =>
    exact kept (shiftMem_keepsSystem _ ea)
  | aslReg sz cnt dn | asrReg sz cnt dn | lslReg sz cnt dn | lsrReg sz cnt dn
  | rolReg sz cnt dn | rorReg sz cnt dn | roxlReg sz cnt dn | roxrReg sz cnt dn =>
    exact kept (shiftReg_keepsSystem _ sz cnt dn)
  | btstImm ea => exact kept (fetchBitNumber_keepsSystem.bind fun k => bitTest_keepsSystem k ea)
  | btstReg n ea => exact kept (.look_bind fun k => bitTest_keepsSystem k ea)
  | bchgImm ea | bclrImm ea | bsetImm ea =>
    exact kept (fetchBitNumber_keepsSystem.bind fun k => bitModify_keepsSystem _ k ea)
  | bchgReg n ea | bclrReg n ea | bsetReg n ea => exact kept (.look_bind fun k => bitModify_keepsSystem _ k ea)
  | oriToCcr | andiToCcr | eoriToCcr => exact kept (fetch16_keepsSystem.bind fun _ => writeCcr _)
  | moveToCcr ea => exact kept ((readEa_keepsSystem .w ea).bind fun _ => writeCcr _)
  | moveFromSr ea => exact kept (.look_bind fun w => writeEa_keepsSystem .w ea w)
  | cmpi sz ea =>
    exact kept ((fetchImm_keepsSystem sz).bind fun _ => (readEa_keepsSystem sz ea).bind fun _ => setFlags_keepsSystem _)
  | cmp sz dn ea | cmpa sz an ea =>
    exact kept ((readEa_keepsSystem sz ea).bind fun _ => .look_bind fun _ => setFlags_keepsSystem _)
  | cmpm sz x y =>
    exact kept ((readMemEa_keepsSystem sz _).bind fun _ => (readMemEa_keepsSystem sz _).bind fun _ =>
      setFlags_keepsSystem _)
  | tst sz ea => exact kept ((readEa_keepsSystem sz ea).bind fun _ => setFlags_keepsSystem _)
  | clr sz ea => exact kept ((setFlags_keepsSystem _).bind fun _ => writeEa_keepsSystem sz ea 0)
  | scc c ea => exact kept (.look_bind fun _ => writeEa_keepsSystem .b ea _)
  | movep toMem sz dn an =>
    exact kept ((eaAddr_keepsSystem .b _).bind fun a =>
      .ite (movepStore_keepsSystem dn _ a) (movepLoad_keepsSystem dn _ a))
  | move sz src dst =>
    exact kept ((readEa_keepsSystem sz src).bind fun v => (setFlags_keepsSystem _).bind fun _ =>
      writeEa_keepsSystem sz dst v)
  | movea sz src an => exact kept ((readEa_keepsSystem sz src).bind fun _ => setAreg an _)
  | adda sz an ea | suba sz an ea => exact kept ((readEa_keepsSystem sz ea).bind fun _ => setAreg an _)
  | moveq data dn =>
    show NextMeets (Confined s) (execMoveq data dn s)
    exact kept ((setFlags_keepsSystem _).bind fun _ => setDreg dn _)
  | movemToMem sz ea =>
    exact kept (fetch16_keepsSystem.bind fun mask => (eaAddr_keepsSystem sz ea).bind fun a =>
      movemStore_keepsSystem sz mask _ a)
  | movemPredec sz an =>
    exact kept (fetch16_keepsSystem.bind fun mask => .look_bind fun a =>
      (movemStoreDown_keepsSystem sz mask _ a).bind fun _ => setAreg an _)
  | movemToRegs sz ea => exact execMovemToRegs_confined hv hrun sz ea
  | lea an ea => exact kept ((eaAddr_keepsSystem .l ea).bind fun _ => setAreg an _)
  | pea ea => exact kept ((eaAddr_keepsSystem .l ea).bind fun a => push32_keepsSystem a)
  | exgDD x y =>
    show NextMeets (Confined s) (execExgDD x y s)
    exact kept (update_keepsSystem fun s => (systemKept_setDreg s x _).trans (systemKept_setDreg _ y _))
  | exgAA x y =>
    show NextMeets (Confined s) (execExgAA x y s)
    exact kept (update_keepsSystem fun s => (systemKept_setAreg s x _).trans (systemKept_setAreg _ y _))
  | exgDA x y =>
    show NextMeets (Confined s) (execExgDA x y s)
    exact kept (update_keepsSystem fun s => (systemKept_setDreg s x _).trans (systemKept_setAreg _ y _))
  | link an => exact execLink_confined hv hrun an
  | unlk an => exact execUnlk_confined hv hrun an
  | mulu dn ea | muls dn ea =>
    exact kept ((readEa_keepsSystem .w ea).bind fun _ => .look_bind fun _ => (logicResult_keepsSystem _).bind fun _ =>
      setDreg dn _)
  | addq sz q ea => exact execAddq_confined hv hrun sz q ea
  | subq sz q ea => exact execSubq_confined hv hrun sz q ea
  | ext sz dn => exact execExt_confined hv hrun sz dn
  | swap dn =>
    show NextMeets (Confined s) (execSwap dn s)
    exact kept (.look_bind fun _ => (logicResult_keepsSystem _).bind fun _ => setDreg dn _)
  | bra disp => exact kept ((branchTarget_keepsSystem disp).bind fun _ => jump_keepsSystem _)
  | bcc c disp => exact execBcc_confined hv hrun c disp
  | bsr disp =>
    exact kept ((branchTarget_keepsSystem disp).bind fun _ => .look_bind fun next =>
      (push32_keepsSystem next).bind fun _ => jump_keepsSystem _)
  | dbcc c dn => exact execDbcc_confined hv hrun c dn
  | jmp ea => exact kept ((eaAddr_keepsSystem .l ea).bind fun _ => jump_keepsSystem _)
  | jsr ea =>
    exact kept ((eaAddr_keepsSystem .l ea).bind fun _ => .look_bind fun next =>
      (push32_keepsSystem next).bind fun _ => jump_keepsSystem _)
  | rts => exact kept (pop32_keepsSystem.bind fun _ => jump_keepsSystem _)
  | rtr =>
    exact kept (pop16_keepsSystem.bind fun _ => (writeCcr _).bind fun _ => pop32_keepsSystem.bind fun _ =>
      jump_keepsSystem _)
  | nop => exact kept (keeps_pure ())

end Vectors

end Confines

/-- Settles O55: `Confined` is what the statement says of the next state. -/
theorem userModeConfined : Obligations.UserModeConfined := fun i _ t hs hrun hv ht => exec_confined hv hrun hs i t ht

end Sys2Proof.Machine

/-! # Exceptions and the machine between instructions (60_exceptions.md, 70_reset_and_hazards.md R430 to R433)

An entry that completes leaves `State.entered`, whatever asks for it: a privileged instruction in user mode, a pending
trace, an accepted interrupt. One whose stack is odd is cut off by an error whose own stacking fails. The reset sequence
leaves a state that what it has cut off decides in nothing but memory. -/

namespace Sys2Proof.Machine

/-! ## The short frame (60_exceptions.md R370, R371) -/

section Frame

variable (s : State) (n : Byte) (pc : Long) (l : Option (BitVec 3))

theorem State.framed_eq_pushed : s.framed pc l = ((s.raised l).pushed .l pc).pushed .w s.sr := by
  have below : s.ssp - 4 - 2 = s.ssp - 6 := by bv_omega
  have top : ((s.raised l).pushed .l pc).ssp - 2 = s.ssp - 6 := by
    rw [State.pushed_ssp, State.raised_ssp]
    exact below
  rw [State.pushed.eq_def (sz := .w)]
  exact (congrArg (fun a => { (s.raised l).pushed .l pc with ssp := a }.store 5 a .w s.sr) top).symm

theorem grown_raised : Grown s 0 (s.raised l) := ⟨entrySr_supervisor s.sr l, (BitVec.sub_zero s.ssp).symm, rfl, rfl⟩

theorem grown_framed : Grown s 6 (s.framed pc l) := by
  rw [State.framed_eq_pushed]
  exact ((grown_raised s l).pushed .l pc).pushed .w s.sr

@[simp] theorem State.framed_d : (s.framed pc l).d = s.d := by simp [State.framed_eq_pushed]
@[simp] theorem State.framed_a : (s.framed pc l).a = s.a := by simp [State.framed_eq_pushed]
@[simp] theorem State.framed_usp : (s.framed pc l).usp = s.usp := by simp [State.framed_eq_pushed]
@[simp] theorem State.framed_sr : (s.framed pc l).sr = entrySr s.sr l := by simp [State.framed_eq_pushed]
@[simp] theorem State.framed_run : (s.framed pc l).run = .running := by simp [State.framed_eq_pushed]

/-- The handler's start changes PC only: it finds the frame as pushed. -/
theorem State.entered_load (fc : BitVec 3) (a : Long) (sz : Size) :
    (s.entered n pc l).load fc a sz = (s.framed pc l).load fc a sz :=
  State.load_congr (State.jump_platform _ _) (State.jump_mem _ _) fc a sz

/-- The pushes write the six bytes of the frame only. -/
theorem framed_memoryKept :
    MemoryKept (s.cells 5 (s.ssp - 4) .l ++ s.cells 5 (s.ssp - 6) .w) s (s.framed pc l) := by
  have g0 := grown_raised s l
  have unwritten : MemoryKept [] s (s.raised l) := MemoryKept.of_mem rfl rfl
  rw [State.framed_eq_pushed]
  exact (g0.pushed .l pc).memoryKept .w s.sr (g0.memoryKept .l pc unwritten)

/-- The frame's words as the handler finds them: SR on top, the saved PC above it. -/
theorem framed_stacked (hm : s.platform.memMap = []) (he : evenAddr s.ssp = true) :
    (s.framed pc l).stacked 0 .w = s.sr ∧ (s.framed pc l).stacked 2 .l = pc := by
  have g0 := grown_raised s l
  have g4 := g0.pushed .l pc
  have m0 : (s.raised l).platform.memMap = [] := by rw [g0.platform, hm]
  have m4 : ((s.raised l).pushed .l pc).platform.memMap = [] := by rw [g4.platform, hm]
  have e0 := g0.evenAddr rfl he
  have e4 := g4.evenAddr rfl he
  rw [State.framed_eq_pushed]
  exact ⟨stacked_pushed_top m4 e4 (sz := .w) nofun s.sr,
    (stacked_pushed_deeper (sz' := .l) m4 e4 (sz := .w) nofun s.sr (k := 0) rfl (by decide)).trans
      (stacked_pushed_top m0 e0 (sz := .l) nofun pc)⟩

end Frame

/-- The mask is raised to a given level only (R370). -/
theorem entrySr_level (sr : Word) (l : Option (BitVec 3)) :
    (entrySr sr l).extractLsb' 8 3 = l.getD (sr.extractLsb' 8 3) := by
  cases l with
  | none => exact entrySr_mask sr
  | some l =>
    apply BitVec.eq_of_getLsbD_eq
    intro i hi
    have : i = 0 ∨ i = 1 ∨ i = 2 := by omega
    rcases this with rfl | rfl | rfl <;> simp [entrySr]

theorem ccrOf_entrySr_level (sr : Word) (l : Option (BitVec 3)) : ccrOf (entrySr sr l) = ccrOf sr := by
  cases l with
  | none => exact ccrOf_entrySr sr
  | some l => simp [ccrOf, entrySr]

theorem canEnter_evenAddr {s : State} {n : Byte} (h : s.canEnter n = true) : evenAddr s.ssp = true := by
  simp only [State.canEnter, State.canStore, Bool.and_eq_true] at h
  obtain ⟨⟨⟨⟨even, -⟩, -⟩, -⟩, -⟩ := h
  rw [← BitVec.sub_add_cancel s.ssp 4]
  exact evenAddr_add_even rfl even

theorem canEnter_quiet {s : State} {n : Byte} (h : s.canEnter n = true) : s.resetIn = none := by
  simp only [State.canEnter, State.canStore, Bool.and_eq_true] at h
  obtain ⟨⟨⟨⟨-, stored⟩, -⟩, -⟩, -⟩ := h
  exact State.storable_quiet stored

/-- Settles O48: the entry is two pushes from the state with SR raised, and a change of flow. -/
theorem shortFrame : Obligations.ShortFrame := by
  intro s n pc l hm hc t
  obtain ⟨sr, saved⟩ := framed_stacked s pc l hm (canEnter_evenAddr hc)
  have ssp : t.ssp = s.ssp - 6 := (grown_framed s pc l).ssp
  have entrySr : t.sr = entrySr s.sr l := State.framed_sr s pc l
  have load : ∀ a sz, t.load 5 a sz = (s.framed pc l).load 5 a sz := State.entered_load s n pc l 5
  refine ⟨enterException_ok hc, ssp, ?_, (load _ .l).trans saved, (load _ .l).symm, ?_, ?_, ?_, ?_,
    State.framed_run s pc l, State.framed_d s pc l, State.framed_a s pc l, State.framed_usp s pc l,
    framed_memoryKept s pc l⟩
  · have top : t.ssp + 0 = t.ssp := BitVec.add_zero t.ssp
    rw [load, ← top]
    exact sr
  · rw [State.supervisor, entrySr, entrySr_supervisor]
  · rw [State.tracing, entrySr, entrySr_trace]
  · rw [State.mask, entrySr, entrySr_level, State.mask]
  · rw [State.ccr, entrySr, ccrOf_entrySr_level, State.ccr]

/-! ## The privilege violation (60_exceptions.md R381, R420, R421) -/

theorem execute_privileged_user {m : M Unit} {s : State} (hs : s.supervisor = false) (hc : s.canEnter 8 = true) :
    execute (privileged m) s = .next ({ s with tracePending := false }.entered 8 (s.pc - 2) none) :=
  execute_ok ((privileged_user hs).trans (raiseUnexecuted_ok hc))

/-- Settles O45: the check comes before the instruction's own computation, so that one lemma serves all nine. -/
theorem privilegeViolation : Obligations.PrivilegeViolation := by
  intro s hs hc t
  have violation {m : M Unit} : execute (privileged m) s = .next t := execute_privileged_user hs hc
  refine ⟨?_, fun _ => violation, fun _ => ⟨violation, violation⟩, State.framed_d _ _ _, State.framed_a _ _ _,
    State.framed_usp _ _ _⟩
  simp only [List.forall_mem_cons]
  exact ⟨violation, violation, violation, violation, violation, violation, List.forall_mem_nil _⟩

/-! ## Trace and interrupts (60_exceptions.md R363, R392 to R398, R425) -/

theorem takeTrace_ok {s : State} (h : s.canEnter 9 = true) :
    takeTrace s = .ok () ({ s with tracePending := false }.entered 9 s.pc none) := by
  unfold takeTrace
  rw [run_update_bind, run_look_bind]
  exact enterException_ok ((State.canEnter_congr rfl rfl rfl 9).trans h)

/-- Settles O58: the pending trace is what the step is, and its entry completes. -/
theorem traceIsTaken : Obligations.TraceIsTaken := by
  intro s hrun ht hr hc
  rw [step_quiet hr, boundaryStep_trace hrun ht, takeTrace_ok hc, finishBoundary_ok]

/-- The acknowledge of level 7 clears its memory (R396, decision D15). -/
def State.acknowledged (s : State) (l : BitVec 3) : State := { s with nmiPending := s.nmiPending && decide (l ≠ 7) }

theorem acknowledged_eq (s : State) (l : BitVec 3) :
    (if l = 7 then { s with nmiPending := false } else s) = s.acknowledged l := by
  unfold State.acknowledged
  by_cases h : l = 7
  · simp [h]
  · rw [if_neg h, decide_eq_true h, Bool.and_true]

theorem takeInterrupt_ok {s : State} {l : BitVec 3} {n : Byte} {ack : Acknowledge} (ha : vectorOf l ack s = .ok n s)
    (hc : s.canEnter n = true) : takeInterrupt l ack s = .ok () ((s.acknowledged l).entered n s.pc (some l)) := by
  have vector : acknowledgeVector l ack s = .ok n s := by
    unfold acknowledgeVector
    rw [run_bind_ok (countCycle_quiet (canEnter_quiet hc)), ha]
  unfold takeInterrupt
  rw [run_bind_ok vector, run_update_bind, acknowledged_eq, run_look_bind]
  exact enterException_ok ((State.canEnter_congr rfl rfl rfl n).trans hc)

theorem acceptedLevel_some {s : State} {l : BitVec 3} (h : s.acceptedLevel = some l) :
    l = 7 ∨ (s.ipl = l ∧ s.mask < l) := by
  unfold State.acceptedLevel at h
  split at h
  · exact .inl (Option.some.inj h).symm
  · split at h
    · next above =>
      obtain rfl := Option.some.inj h
      exact .inr ⟨rfl, above⟩
    · simp at h

theorem acceptedLevel_none_iff (s : State) : s.acceptedLevel = none ↔ s.nmiPending = false ∧ ¬ s.mask < s.ipl := by
  unfold State.acceptedLevel
  cases s.nmiPending <;> simp

/-- Settles O59: the acknowledge answers the vector, and the entry completes. -/
theorem interruptIsTaken : Obligations.InterruptIsTaken := by
  intro s l n hrun ht hr hl ha hc
  have vector : vectorOf l s.nextSample.ack s.sampled = .ok n s.sampled := by
    cases hack : s.nextSample.ack with
    | silent => simp [hack] at ha
    | vector | autovector | spurious =>
      simp only [hack] at ha
      rw [ha]
      rfl
  have enter : s.sampled.canEnter n = true := (State.canEnter_congr rfl rfl rfl n).trans hc
  refine ⟨?_, acceptedLevel_some hl⟩
  rw [step_quiet hr, boundaryStep_sampled hrun ht]
  simp only [sampledStep, hl]
  rw [takeInterrupt_ok vector enter, finishBoundary_ok]
  rfl

/-- Settles O60: the memory of level 7 after the sample is that of before or a transition seen now. -/
theorem interruptAcceptance : Obligations.InterruptAcceptance := by
  have accepted (s : State) : s.sampled.acceptedLevel = none ↔
      (s.nmiPending = false ∧ ¬ (s.nextSample.level = 7 ∧ s.ipl ≠ 7) ∧ ¬ s.mask < s.nextSample.level) := by
    have seen : s.sampled.nmiPending = false ↔ s.nmiPending = false ∧ ¬ (s.nextSample.level = 7 ∧ s.ipl ≠ 7) := by
      simp only [State.sampled, Bool.or_eq_false_iff, Bool.and_eq_false_iff, decide_eq_false_iff_not, not_and_or]
    rw [acceptedLevel_none_iff, seen, and_assoc]
    rfl
  refine ⟨accepted, fun s hn hi hl hm => ?held, fun s hrun ht hr ha => ?stopped⟩
  case held =>
    rw [accepted, hl, hm]
    exact ⟨hn, fun ⟨_, new⟩ => new hi, lt_irrefl 7⟩
  case stopped =>
    rw [step_quiet hr, boundaryStep_sampled (by simp [hrun]) ht]
    simp only [sampledStep, ha]
    exact if_pos hrun

/-! ## An odd supervisor stack, and an odd PC in the window of a double bus fault (60_exceptions.md R410, R411) -/

theorem evenAddr_sub_odd {a : Long} {n : Nat} (hn : n % 2 = 0) (h : evenAddr a = false) :
    evenAddr (a - BitVec.ofNat 32 n) = false := by
  rw [Bool.eq_false_iff] at h ⊢
  intro even
  apply h
  rw [← BitVec.sub_add_cancel a (BitVec.ofNat 32 n)]
  exact evenAddr_add_even hn even

/-- An error in exception processing says so (R384). -/
theorem inException_error {α : Type} {m : M α} {s t : State} {e : AccessError} {cyc : Cycle} {b : Bool}
    (h : m s = .error (.access e cyc b) t) : inException m s = .error (.access e cyc true) t := by
  simp only [inException, h]

/-- An odd stack pointer makes the first push of a frame an address error, which nothing but A7 precedes (R68). -/
theorem push32_odd {s : State} (hs : s.supervisor = true) (h : evenAddr s.ssp = false) (v : Long) :
    ∃ cyc, push32 v s = .error (.access .addressError cyc false) { s with ssp := s.ssp - 4 } := by
  obtain ⟨w, cut⟩ := writeSized_odd (s := { s with ssp := s.ssp - 4 }) (fc := 5) (sz := .l) (v := v) nofun
    (evenAddr_sub_odd (n := 4) rfl h)
  have fc : ({ s with ssp := s.ssp - 4 } : State).dataFc = 5 := dataFc_supervisor hs
  refine ⟨.writing 5 (s.ssp - 4) true w, ?_⟩
  unfold push32
  rw [run_update_bind, run_look_bind, State.setAreg_areg_same, areg_sp_supervisor hs, setAreg_sp_supervisor hs]
  unfold memWrite
  rw [run_look_bind, fc]
  exact cut

theorem enterException_odd {s : State} (h : evenAddr s.ssp = false) (n : Byte) (pc : Long) (l : Option (BitVec 3)) :
    ∃ cyc, enterException n pc l s =
      .error (.access .addressError cyc true) { s.raised l with ssp := s.ssp - 4 } := by
  obtain ⟨cyc, cut⟩ := push32_odd (s := s.raised l) (entrySr_supervisor s.sr l) h pc
  refine ⟨cyc, inException_error (b := false) ?_⟩
  rw [run_look_bind, run_update_bind]
  exact run_bind_error cut

theorem enterAccessError_odd {s : State} (h : evenAddr s.ssp = false) (e : AccessError) (cyc : Cycle) (inExc : Bool)
    (p : Progress) : ∃ cyc' t, enterAccessError e cyc inExc p s = .error (.access .addressError cyc' true) t := by
  obtain ⟨cyc', cut⟩ := push32_odd (s := s.errorRaised) (entrySr_supervisor s.sr none) h
    (framePc p (Config.free s.draws))
  refine ⟨cyc', { s.errorRaised with ssp := s.ssp - 4 }, inException_error (b := false) ?_⟩
  simp only [run_look_bind, run_update_bind, run_draw_bind]
  exact run_bind_error cut

/-- What is cut off has its old or its new stack pointer (R373). -/
theorem blend_ssp (old new : State) : (blend old new).ssp = old.ssp ∨ (blend old new).ssp = new.ssp := by
  simp only [blend, blendValue]
  split
  · exact .inr rfl
  · split
    · exact .inl rfl
    · exact .inr rfl

/-- An error that finds the stack odd before and after what it cuts off is a double bus fault (R410, R411). -/
theorem accessErrorTaken_odd {base now : State} (hb : evenAddr base.ssp = false) (hn : evenAddr now.ssp = false)
    (e : AccessError) (cyc : Cycle) (inExc : Bool) (p : Progress) :
    ∃ t, accessErrorTaken base now e cyc inExc p = .next t ∧ t.run = .halted := by
  have odd : evenAddr (blend base now).ssp = false := by
    rcases blend_ssp base now with h | h <;> rw [h] <;> assumption
  obtain ⟨cyc', t, cut⟩ := enterAccessError_odd odd e cyc inExc p
  exact ⟨haltFrom (blend base now) t, by simp only [accessErrorTaken, cut], rfl⟩

theorem exec_trap_odd {s : State} (h : evenAddr s.ssp = false) (n : Fin 16) :
    ∃ t, exec (.trap n) s = .next t ∧ t.run = .halted := by
  obtain ⟨cyc, cut⟩ := enterException_odd h (32 + BitVec.ofNat 8 n.val) s.pc none
  obtain ⟨t, taken, halted⟩ := accessErrorTaken_odd (base := s) (now := { s.raised none with ssp := s.ssp - 4 }) h
    (evenAddr_sub_odd (n := 4) rfl h) .addressError cyc true (.instruction (s.pc - 2))
  refine ⟨t, ?_, halted⟩
  rw [← taken]
  exact congrArg (finish s) cut

/-- A running machine with nothing to trace or accept goes on to the next operation word. -/
theorem boundaryStep_fetches {s : State} (hrun : s.run = .running) (ht : s.tracePending = false)
    (hl : s.sampled.acceptedLevel = none) : boundaryStep s = runInstruction s.sampled := by
  have running : s.sampled.run ≠ .stopped := by simp [State.sampled, hrun]
  rw [boundaryStep_sampled (by simp [hrun]) ht]
  simp only [sampledStep, hl]
  exact if_neg running

theorem fetchOpword_odd {s : State} (h : evenAddr s.pc = false) :
    fetchOpword s = .error (.access .addressError (.reading s.progFc s.pc true) false) s := by
  unfold fetchOpword
  rw [run_look_bind]
  exact run_bind_error (fetch16_odd h)

theorem step_odd_pc_halts {s : State} (hrun : s.run = .running) (ht : s.tracePending = false)
    (hr : s.nextSample.reset = none) (hl : s.sampled.acceptedLevel = none) (hw : s.window ≠ .none)
    (hpc : evenAddr s.pc = false) : ∃ t, step s = .next t ∧ t.run = .halted := by
  refine ⟨haltFrom s.sampled s.sampled, ?_, rfl⟩
  rw [step_quiet hr, boundaryStep_fetches hrun ht hl, runInstruction, fetchOpword_odd (s := s.sampled) hpc]
  exact finishBoundary_double hw

/-- Settles O50: the frame of the trap and the frame of its address error both begin below an odd address. -/
theorem oddStackHalts : Obligations.OddStackHalts := by
  refine ⟨fun s n h => exec_trap_odd h n, fun s => step_odd_pc_halts, fun s hrun =>
    ⟨fun hi => ?_, fun smp rest hi hr => ?_⟩⟩
  · rw [step_quiet (by simp [State.nextSample, hi, quietSample]), boundaryStep_halted_nil hrun hi]
  · rw [step_quiet (by simpa [State.nextSample, hi] using hr), boundaryStep_halted_cons hrun hi]

/-! ## The reset sequence (70_reset_and_hazards.md R430 to R433) -/

/-- A state in the course of the reset sequence: its vector reads leave SSP, PC and the free draws. -/
def State.resetLoaded (s : State) (ssp pc : Long) (draws : Nat) : State :=
  { s.resetRegisters with ssp := ssp, pc := pc, draws := draws }

/-- The state is one of the reset sequence begun in `s`. -/
def ResetFrom (s t : State) : Prop := ∃ ssp pc draws, t = s.resetLoaded ssp pc draws

section ResetSequence

variable {s : State}

/-- No second reset comes in the sequence, so that its cycles count nothing. -/
theorem readWord_keepsReset (fc : BitVec 3) (a : Long) : Keeps (ResetFrom s) (readWord fc a) := by
  have count : Keeps (ResetFrom s) countCycle := by
    rintro _ ⟨ssp, pc, draws, rfl⟩
    exact ⟨ssp, pc, draws, rfl⟩
  have cycle (cyc : Cycle) : Keeps (ResetFrom s) (busCycle cyc) := by
    refine count.bind fun _ => .look_bind fun reply => ?_
    cases reply with
    | busError => exact keeps_abort _
    | silent => exact keeps_hang
    | data | readOnly | device => exact keeps_pure _
  have drawn : Keeps (ResetFrom s) draw := by
    rintro _ ⟨ssp, pc, draws, rfl⟩
    exact ⟨ssp, pc, draws + 1, rfl⟩
  exact (Keeps.ite (keeps_abort _) (keeps_pure _)).bind fun _ => (cycle _).bind fun _ =>
    .ite (drawn.bind fun _ => keeps_pure _) (keeps_look _)

theorem readLong_keepsReset (fc : BitVec 3) (a : Long) : Keeps (ResetFrom s) (readLong fc a) :=
  (readWord_keepsReset fc a).bind fun _ => (readWord_keepsReset fc _).bind fun _ => keeps_pure _

/-- The sequence ends in a state of its own, whatever it began in and whatever its vector reads meet. -/
theorem hardReset_resetFrom (s : State) : ResetFrom s (finalState (hardReset s)) := by
  have loads : Keeps (ResetFrom s) (readLong 6 0 >>= fun ssp => update (fun s => { s with ssp := ssp }) >>= fun _ =>
      readLong 6 4 >>= fun pc => update fun s => { s with pc := pc }) := by
    refine (readLong_keepsReset 6 0).bind fun ssp => .bind (keeps_update ?_) fun _ =>
      (readLong_keepsReset 6 4).bind fun pc => keeps_update ?_
    · rintro _ ⟨_, pc, draws, rfl⟩
      exact ⟨ssp, pc, draws, rfl⟩
    · rintro _ ⟨ssp, _, draws, rfl⟩
      exact ⟨ssp, pc, draws, rfl⟩
  exact loads s.resetRegisters ⟨s.ssp, s.pc, s.draws + 17, rfl⟩

/-- A reset that ends leaves a state of the sequence, which runs or is halted (R432). -/
theorem resetStep_next {t : State} (h : resetStep s = .next t) :
    ∃ ssp pc draws run, t = { s.resetLoaded ssp pc draws with run := run } ∧ (run = .running ∨ run = .halted) := by
  obtain ⟨ssp, pc, draws, final⟩ := hardReset_resetFrom s
  unfold resetStep at h
  cases hm : hardReset s with
  | ok a u =>
    obtain rfl : u = s.resetLoaded ssp pc draws := by rw [hm] at final; exact final
    rw [hm] at h
    exact ⟨ssp, pc, draws, .running, (Host.Outcome.next.inj h).symm, .inl rfl⟩
  | error x u =>
    obtain rfl : u = s.resetLoaded ssp pc draws := by rw [hm] at final; exact final
    rw [hm] at h
    cases x with
    | access => exact ⟨ssp, pc, draws, .halted, (Host.Outcome.next.inj h).symm, .inr rfl⟩
    | reset => exact ⟨ssp, pc, draws, .running, (Host.Outcome.next.inj h).symm, .inl rfl⟩
    | fault f => simp at h
    | refuse r => simp at h

theorem resetRegisters_supervisor (s : State) : s.resetRegisters.supervisor = true :=
  withCcr_high 0x2700 _ 13 (by decide)

theorem resetRegisters_tracing (s : State) : s.resetRegisters.tracing = false :=
  withCcr_high 0x2700 _ 15 (by decide)

theorem resetRegisters_mask (s : State) : s.resetRegisters.mask = 7 := by
  have system : s.resetRegisters.sr.extractLsb' 5 11 = (0x2700 : Word).extractLsb' 5 11 := withCcr_system _ _
  rw [State.mask, ← mask_of_system, system]
  rfl

/-- With vectors that can be read, SSP and PC are what they hold, in supervisor program space (R430). -/
theorem resetStep_ok (h0 : s.resetRegisters.canRead 6 0 .l = true) (h4 : s.resetRegisters.canRead 6 4 .l = true) :
    resetStep s = .next { s.resetRegisters with ssp := s.load 6 0 .l, pc := s.load 6 4 .l } := by
  let s1 : State := { s.resetRegisters with ssp := s.load 6 0 .l }
  have ssp : readLong 6 0 s.resetRegisters = .ok (s.load 6 0 .l) s.resetRegisters := readSized_ok (sz := .l) h0
  have pc : readLong 6 4 s1 = .ok (s.load 6 4 .l) s1 :=
    readSized_ok (sz := .l) ((State.canRead_congr rfl rfl 6 4 .l).trans h4)
  have run : hardReset s = .ok () { s1 with pc := s.load 6 4 .l } := by
    unfold hardReset
    rw [run_update_bind, run_bind_ok ssp, run_update_bind]
    exact run_bind_ok pc
  simp only [resetStep, run]
  rfl

/-- A bus error on the first vector halts the machine (R432). -/
theorem resetStep_busError (h : s.answer (.reading 6 0 true) = .busError) :
    ∃ t, resetStep s = .next t ∧ t.run = .halted ∧ t.mem = s.mem := by
  have read : readLong 6 0 s.resetRegisters =
      .error (.access .busError (.reading 6 0 true) false) s.resetRegisters :=
    readSized_busError (sz := .l) (fun _ => rfl) rfl h
  have run : hardReset s = .error (.access .busError (.reading 6 0 true) false) s.resetRegisters := by
    unfold hardReset
    rw [run_update_bind, run_bind_error read]
  exact ⟨{ s.resetRegisters with run := .halted }, by simp only [resetStep, run], rfl, rfl⟩

end ResetSequence

/-! ## An instruction that a reset cuts off (60_exceptions.md R362, R375; log 5) -/

section CutOff

variable {s : State}

theorem answer_plain (hm : s.platform.memMap = []) (hr : s.platform.responses = []) (cyc : Cycle) :
    s.answer cyc = .data := by
  simp [State.answer, State.response, State.regionReply, State.region, hm, hr]

theorem canRead_plain (hm : s.platform.memMap = []) (hr : s.platform.responses = []) (hq : s.resetIn = none)
    {fc : BitVec 3} {a : Long} (ha : evenAddr a = true) : s.canRead fc a .l = true := by
  simp [State.canRead, State.readable, answer_plain hm hr, hq, ha]

/-- Where no store has hit the prefetch window a fetch finds memory's word. -/
theorem fetchCell_fresh {k : Nat} (h : s.staleAt k = []) : fetchCell k s = .ok (s.mem.getWord k) s := by
  unfold fetchCell
  rw [h]

/-- A fetch that a reset does not reach yet brings it one cycle nearer. -/
theorem fetch16_counted {n : Nat} (hq : s.resetIn = some (n + 1)) (ha : ∀ cyc, s.answer cyc = .data)
    (he : evenAddr s.pc = true) (hf : s.freshPc = true) :
    fetch16 s = .ok s.nextWord { s.consumed with resetIn := some n } := by
  have cycle (cyc : Cycle) : busCycle cyc s = .ok .data { s with resetIn := some n } := by
    have counted : countCycle s = .ok () { s with resetIn := some n } := by simp only [countCycle, hq]
    unfold busCycle
    rw [run_bind_ok counted, run_look_bind]
    have data : ({ s with resetIn := some n } : State).answer cyc = .data := (State.answer_congr rfl cyc).trans (ha cyc)
    simp only [data]
    rfl
  have word : fetchAnswered .data (s.cell s.progFc s.pc) { s with resetIn := some n } =
      .ok s.nextWord { s with resetIn := some n } :=
    fetchCell_fresh (s := { s with resetIn := some n }) (List.isEmpty_iff.mp hf)
  unfold fetch16
  rw [run_look_bind, run_look_bind, run_bind_ok (aligned_even he), run_bind_ok (cycle _), run_look_bind]
  exact (run_bind_ok word).trans rfl

/-- RTS whose first pop the reset cuts off leaves the state as it found it, but for a free draw. -/
theorem exec_rts_reset (hq : s.resetIn = some 0) (he : evenAddr (s.areg spReg) = true) :
    exec .rts s = .next { s with draws := s.draws + 1 } := by
  have read : memRead .l (s.areg spReg) s = .error .reset s := by
    have even : aligned (.reading s.dataFc (s.areg spReg) true) s = .ok () s := aligned_even he
    have word : readWord s.dataFc (s.areg spReg) s = .error .reset s := by
      unfold readWord
      rw [run_bind_ok even, run_bind_error (busCycle_reset hq)]
    unfold memRead
    rw [run_look_bind]
    exact run_bind_error word
  have pop : pop32 s = .error .reset s := by
    unfold pop32
    rw [run_look_bind, run_bind_error read]
  change finish s ((pop32 >>= fun t => update fun s => s.jump t) s) = _
  rw [run_bind_error pop]
  simp only [finish, abandonedFrom, blendMem_self, ← hq]

/-- The fetch is the one cycle before the reset, and what is cut off has written nothing. -/
theorem boundaryStep_rts_cutOff {smp : Sample} {rest : List Sample} (hrun : s.run = .running)
    (ht : s.tracePending = false) (hl : (s.armed smp rest 1).sampled.acceptedLevel = none) (hpc : evenAddr s.pc = true)
    (hf : s.freshPc = true) (hd : decode s.nextWord = .ok .rts) (hm : s.platform.memMap = [])
    (hr : s.platform.responses = []) (hsp : evenAddr (s.areg spReg) = true) :
    ∃ u, boundaryStep (s.armed smp rest 1) = .next u ∧ u.mem = s.mem ∧ u.platform = s.platform := by
  let a := (s.armed smp rest 1).sampled
  let b : State := { a.consumed with
    resetIn := some 0, ir := s.nextWord, window := .none, tracePending := s.tracing }
  have word : fetch16 a = .ok s.nextWord { a.consumed with resetIn := some 0 } :=
    fetch16_counted (s := a) rfl (answer_plain hm hr) hpc hf
  have fetch : fetchOpword a = .ok s.nextWord b := by
    unfold fetchOpword
    rw [run_look_bind, run_bind_ok word]
    rfl
  have sp : b.areg spReg = s.areg spReg := State.areg_congr rfl rfl rfl rfl spReg
  refine ⟨{ b with draws := b.draws + 1 }, ?_, rfl, rfl⟩
  rw [boundaryStep_fetches (s := s.armed smp rest 1) hrun ht hl, runInstruction, fetch]
  simp only [execWord, hd]
  exact exec_rts_reset rfl (sp ▸ hsp)

end CutOff

/-- Settles O51: at the boundary the step is the reset sequence; within a step it is the sequence after what was cut
off, which decides nothing that the sequence sets; RTS is cut off before it has changed anything that the vectors depend
on. -/
theorem externalReset : Obligations.ExternalReset := by
  refine ⟨fun s smp rest hi hr => ⟨?boundary, ?unreadable⟩, ?within, ?rts⟩
  case boundary =>
    intro h0 h4
    have quiet : s.resetIn = none := by
      simp only [State.canRead, Bool.and_eq_true] at h0
      obtain ⟨⟨-, first⟩, -⟩ := h0
      exact State.readable_quiet first
    let s0 : State := { s with inputs := rest, ipl := smp.level }
    have read {a : Long} (h : s.canRead 6 a .l = true) : s0.resetRegisters.canRead 6 a .l = true :=
      (State.canRead_congr (s := s) (t := s0.resetRegisters) rfl quiet.symm 6 a .l).trans h
    refine ⟨_, (step_reset hi hr).trans (resetStep_ok (read h0) (read h4)), resetRegisters_supervisor s0,
      resetRegisters_tracing s0, resetRegisters_mask s0, ?_, ?_, rfl, rfl, rfl, rfl⟩
    · exact State.load_congr rfl rfl 6 0 .l
    · exact State.load_congr rfl rfl 6 4 .l
  case unreadable =>
    intro h
    rw [step_reset hi hr]
    exact resetStep_busError ((State.answer_congr rfl _).trans h)
  case within =>
    intro s t smp rest n hi hr ht
    rw [step_reset_within hi hr] at ht
    obtain ⟨u, -, reset⟩ := resetAfter_next ht
    obtain ⟨ssp, pc, draws, run, rfl, hrun⟩ := resetStep_next reset
    exact ⟨resetRegisters_supervisor _, resetRegisters_tracing _, resetRegisters_mask _, rfl, rfl, rfl, rfl, rfl, hrun⟩
  case rts =>
    intro s smp rest hi hr hrun ht hl hpc hf hd hm hsp hresp
    obtain ⟨u, cut, mem, platform⟩ :=
      boundaryStep_rts_cutOff (smp := smp) (rest := rest) hrun ht hl hpc hf hd hm hresp hsp
    let s0 : State := { u with inputs := rest, ipl := smp.level }
    have read {a : Long} (ha : evenAddr a = true) : s0.resetRegisters.canRead 6 a .l = true :=
      canRead_plain (by rw [← hm]; exact congrArg _ platform) (by rw [← hresp]; exact congrArg _ platform) rfl ha
    refine ⟨{ s0.resetRegisters with ssp := s0.load 6 0 .l, pc := s0.load 6 4 .l }, ?_,
      State.load_congr platform mem 6 0 .l, State.load_congr platform mem 6 4 .l, rfl⟩
    rw [step_reset_within hi hr, cut]
    exact resetStep_ok (read rfl) (read rfl)

end Sys2Proof.Machine

/-! # Operand addresses and reads (30_encoding.md R106, R110 to R125)

Each mode is its fetches, one after another, and then a sum; what a fetch consumes is PC, on which no register and no
index value depends. -/

namespace Sys2Proof.Machine

/-! ## Addresses -/

/-- Settles O5: -(An) looks the register up after the step. -/
theorem registerModesAddress : Obligations.RegisterModesAddress := by
  refine ⟨fun sz n s => ⟨rfl, rfl, ?_⟩, rfl, fun n other => if_neg other, fun n => ⟨rfl, rfl⟩⟩
  simp only [eaAddr]
  rw [run_update_bind, run_look, State.setAreg_areg_same]

section Fetched

variable {s : State}

theorem State.consumed_areg (n : RegNo) : s.consumed.areg n = s.areg n := State.areg_congr rfl rfl rfl rfl n

theorem State.consumed_indexValue (e : BriefExt) : s.consumed.indexValue e = s.indexValue e := by
  unfold State.indexValue
  rw [State.consumed_areg]
  rfl

/-- The displacement and the index of a brief extension word that is fetched (R116). -/
theorem fetchIndex_ok (h : s.canFetch = true) (hf : s.freshPc = true) : fetchIndex s =
    .ok ((BriefExt.decode s.nextWord).disp.signExtend 32 + s.indexValue (BriefExt.decode s.nextWord)) s.consumed := by
  unfold fetchIndex
  rw [run_bind_ok (fetch16_ok h hf), run_look, State.consumed_indexValue]

/-- Two words in a row, the high-order word first (R106). -/
theorem fetch32_ok (h : s.canFetch = true) (hf : s.freshPc = true) (h2 : s.consumed.canFetch = true)
    (hf2 : s.consumed.freshPc = true) :
    fetch32 s = .ok (s.nextWord ++ s.consumed.nextWord) s.consumed.consumed := by
  unfold fetch32
  rw [run_bind_ok (fetch16_ok h hf), run_bind_ok (fetch16_ok h2 hf2), run_pure]

end Fetched

/-- Settles O6: the word, or the displacement and index that it holds, added to the register or to the PC before it. -/
theorem extensionModesAddress : Obligations.ExtensionModesAddress := by
  intro sz n s h hf w e
  have word : fetch16 s = .ok w s.consumed := fetch16_ok h hf
  have index : fetchIndex s = .ok (e.disp.signExtend 32 + s.indexValue e) s.consumed := fetchIndex_ok h hf
  simp only [eaAddr]
  refine ⟨?disp, ?index, ?absW, ?pcDisp, ?pcIndex⟩
  case disp => rw [run_bind_ok word, run_look, State.consumed_areg]
  case index => rw [run_bind_ok index, run_look, State.consumed_areg]
  case absW => rw [run_bind_ok word, run_pure]
  case pcDisp => rw [run_look_bind, run_bind_ok word, run_pure]
  case pcIndex => rw [run_look_bind, run_bind_ok index, run_pure]

/-- Settles O7: a byte is the low part of one word, a long two words. -/
theorem immediatesFromStream : Obligations.ImmediatesFromStream := by
  intro s h hf
  have word := fetch16_ok h hf
  refine ⟨?_, word, fun h2 hf2 => ⟨fetch32_ok h hf h2 hf2, fun _ => fetch32_ok h hf h2 hf2⟩⟩
  simp only [fetchImm]
  rw [run_bind_ok word, run_pure]

/-! ## Reads -/

/-- Program space is for the PC-relative modes where the platform says so (G15, log 23). -/
theorem State.operandFc_eq_ite (ea : Ea) (s : State) : s.operandFc ea =
    if (ea = .pcDisp ∨ ea = .pcIndex) ∧ s.platform.pcRelProgram = true then s.progFc else s.dataFc := by
  cases ea with
  | pcDisp | pcIndex => simp [State.operandFc]
  | dn | an | ind | post | pre | disp | index | absW | absL | imm => simp [State.operandFc]

/-- A cycle that a device answers. -/
theorem busCycle_device {s : State} {cyc : Cycle} (hq : s.resetIn = none) (h : s.answer cyc = .device) :
    busCycle cyc s = .ok .device s := by
  unfold busCycle
  rw [run_bind_ok (countCycle_quiet hq), run_look_bind, h]
  rfl

/-- Settles O8: by the modes; a device's answer is a free draw (log 20). -/
theorem operandReads : Obligations.OperandReads := by
  refine ⟨fun sz n s => rfl, fun sz n s word => ?an, fun sz s => rfl, fun sz ea s s1 a hm hi ha hr => ?memory,
    State.operandFc_eq_ite, fun fc a s hq => ⟨fun hb => ?byte, fun even hw => ?word⟩⟩
  case an =>
    simp only [readEa, if_neg word]
    rw [run_look]
  case memory => rw [readEa_memory hm hi, readMemEa_ok ha hr]
  case byte =>
    obtain ⟨v, hv⟩ := supply_device (fun s => s.mem.get (s.cell fc a)) s
    exact ⟨v, (run_bind_ok (busCycle_device hq hb)).trans hv⟩
  case word =>
    have fit : aligned (.reading fc a true) s = .ok () s := aligned_even even
    obtain ⟨v, hv⟩ := supply_device (fun s => s.mem.getWord (s.cell fc a)) s
    exact ⟨v, (run_bind_ok fit).trans ((run_bind_ok (busCycle_device hq hw)).trans hv)⟩

end Sys2Proof.Machine

/-! # Results in memory, quick values and memory shifts (30_encoding.md R128, R131) -/

namespace Sys2Proof.Machine

/-- Settles O20: the register is looked up after the address has been evaluated. -/
theorem toMemoryResult : Obligations.ToMemoryResult := by
  constructor
  case left =>
    intro sz dn ea s s1 a hm ha hr hs d v sum dif t
    have run : ∀ {g : BitVec sz.bits → BitVec sz.bits → M (BitVec sz.bits)} {c : Ccr} {r : BitVec sz.bits},
        g d v s1 = .ok r (s1.setCcr c) → execute (dnToEa sz dn ea g) s = .next (t c r) := fun hg =>
      execute_ok (modifyEa_memory_flags hm ha hr hs hg)
    exact ⟨run rfl, run rfl, run rfl, run rfl, run rfl, fun f r => (eaAddr_kept ha).changes_store f _ a sz r⟩
  case right =>
    intro sz dn n s r
    have run : dnToEa sz dn (.dn n) (fun d v => logicResult (d ^^^ v)) s =
        .ok () ((s.setCcr (moveFlags s.ccr r)).setDlow n sz r) := modifyEa_dn rfl
    exact ⟨execute_ok run, (OperandKept.refl [] s).changes_setDlow _ n sz r⟩

/-- The quick field holds 1 to 8, modulo 8 (R131). -/
theorem quick_range (q : RegNo) : 1 ≤ quick q ∧ quick q ≤ 8 ∧ quick q % 8 = q.val := by
  have hq := q.isLt
  unfold quick
  split <;> omega

/-- The forms of ADDQ and SUBQ but those on an address register. -/
theorem execQuick_memory {sz : Size} {q : RegNo} {ea : Ea} (hm : ea.isMemAlterable = true) (s : State) :
    execAddq sz q ea s = execute (modifyEa sz ea fun d => addResult d (BitVec.ofNat sz.bits (quick q))) s ∧
    execSubq sz q ea s = execute (modifyEa sz ea fun d => subResult d (BitVec.ofNat sz.bits (quick q))) s := by
  cases ea with
  | an n => exact absurd hm Bool.false_ne_true
  | _ => exact ⟨rfl, rfl⟩

theorem execQuick_an {sz : Size} (h : sz ≠ .b) (q n : RegNo) (s : State) :
    execAddq sz q (.an n) s = .next (s.setAreg n (s.areg n + BitVec.ofNat 32 (quick q))) ∧
    execSubq sz q (.an n) s = .next (s.setAreg n (s.areg n - BitVec.ofNat 32 (quick q))) := by
  unfold execAddq execSubq
  simp only [if_neg h]
  exact ⟨rfl, rfl⟩

/-- Settles O22: a data register, an address register, a memory operand. -/
theorem quickResult : Obligations.QuickResult := by
  intro sz q s k v
  refine ⟨?dn, ?an, ?memory, quick_range q⟩
  case dn =>
    intro n sum dif t
    exact ⟨execute_ok (modifyEa_dn (f := fun d => addResult d v) rfl),
      execute_ok (modifyEa_dn (f := fun d => subResult d v) rfl),
      fun f r => (OperandKept.refl [] s).changes_setDlow f n sz r⟩
  case an =>
    intro n word
    obtain ⟨add, sub⟩ := execQuick_an word q n s
    exact ⟨add, sub, fun r => ⟨changes_setAreg s n r, State.setAreg_sr s n r⟩⟩
  case memory =>
    intro ea s1 a hm ha hr hs sum dif t
    obtain ⟨add, sub⟩ := execQuick_memory (sz := sz) (q := q) hm s
    exact ⟨add.trans (execute_ok (modifyEa_memory_flags hm ha hr hs rfl)),
      sub.trans (execute_ok (modifyEa_memory_flags hm ha hr hs rfl)),
      fun f r => (eaAddr_kept ha).changes_store f _ a sz r⟩

/-- Settles O33: one step of the word, whichever of the eight it is. -/
theorem memoryShiftResult : Obligations.MemoryShiftResult := by
  intro ea s s1 a hm ha hr hs o t
  have run (op : ShiftOp) : execute (shiftMem op ea) s = .next (t op) :=
    execute_ok (modifyEa_memory_flags hm ha hr hs (shiftResult_run op 1 _ s1))
  exact ⟨run .asl, run .asr, run .lsl, run .lsr, run .rol, run .ror, run .roxl, run .roxr,
    fun op => (eaAddr_kept ha).changes_store _ _ a .w _⟩

end Sys2Proof.Machine

/-! # The conditions after a comparison (30_encoding.md R140, R205)

Of the difference, Z says that the operands are equal, C that the destination is the smaller unsigned, and N that it is
the smaller signed, but where V says that the difference is out of range. -/

namespace Sys2Proof.Machine

section Compare

variable {w : Nat} (d v : BitVec (w + 1))

theorem aluSub_r_eq_zero_iff : (aluSub d v false).r = 0 ↔ d = v := by
  have hd := toNat_lt_double d
  have hv := toNat_lt_double v
  have difference := aluSub_r_toNat d v false
  rw [carryIn_false, Nat.cast_zero] at difference
  rw [← BitVec.toNat_inj, ← BitVec.toNat_inj, BitVec.ofNat_eq_ofNat, BitVec.toNat_ofNat, Nat.zero_mod]
  omega

theorem aluSub_c_iff_lt : (aluSub d v false).c = true ↔ d.toNat < v.toNat := by
  rw [aluSub_c_iff, carryIn_false, Nat.cast_zero]
  omega

/-- The sign of the exact difference: that of the result, corrected where it overflows. -/
theorem aluSub_sign_iff_lt : ((aluSub d v false).r.msb != (aluSub d v false).v) = true ↔ d.toInt < v.toInt := by
  have hd := toNat_lt_double d
  have hv := toNat_lt_double v
  have difference := aluSub_r_toNat d v false
  have sign := msb_iff_le_toNat (aluSub d v false).r
  have overflow := aluSub_v_iff d v false
  rw [toInt_eq_ite_top d, toInt_eq_ite_top v] at overflow ⊢
  rw [carryIn_false, Nat.cast_zero] at difference overflow
  rw [bne_iff_ne, Ne, Bool.eq_iff_iff, sign, overflow]
  omega

end Compare

/-- The signed conditions speak of N and V only in whether they differ. -/
theorem condHolds_signed (f : Ccr) :
    condHolds .lt f = (f.n != f.v) ∧ condHolds .ge f = !(f.n != f.v) ∧
    condHolds .le f = (f.z || f.n != f.v) ∧ condHolds .gt f = (!f.z && !(f.n != f.v)) := by
  simp only [condHolds]
  cases f.n <;> cases f.v <;> cases f.z <;> decide

/-- Settles O31: by what the flags of the difference say of the operands, at each of the three widths. -/
theorem conditionsAfterCompare : Obligations.ConditionsAfterCompare := by
  intro sz
  obtain ⟨w, hw⟩ := Size.bits_eq_succ sz
  rw [hw]
  intro d v f c
  have zero : c.z = true ↔ d = v := decide_eq_true_iff.trans (aluSub_r_eq_zero_iff d v)
  have carry : c.c = true ↔ d.toNat < v.toNat := aluSub_c_iff_lt d v
  have sign : (c.n != c.v) = true ↔ d.toInt < v.toInt := aluSub_sign_iff_lt d v
  have zeroInt := zero.trans BitVec.toInt_inj.symm
  have zeroNat := zero.trans BitVec.toNat_inj.symm
  obtain ⟨lt, ge, le, gt⟩ := condHolds_signed c
  refine ⟨?eq, ?ne, ?gt, ?ge, ?lt, ?le, ?hi, ?cc, ?cs, ?ls, rfl, rfl, rfl, rfl, rfl, rfl⟩
  all_goals rw [Bool.eq_iff_iff, decide_eq_true_iff]
  case eq => exact zero
  case ne => simp only [condHolds, Bool.not_eq_true', Bool.eq_false_iff, ne_eq, zero]
  case lt => exact lt ▸ sign
  case cs => exact carry
  case gt | ge | le =>
    simp only [gt, ge, le, Bool.or_eq_true, Bool.and_eq_true, Bool.not_eq_true', Bool.eq_false_iff, ne_eq, zeroInt,
      sign]
    omega
  case hi | cc | ls =>
    simp only [condHolds, Bool.or_eq_true, Bool.and_eq_true, Bool.not_eq_true', Bool.eq_false_iff, ne_eq, zeroNat,
      carry]
    omega

end Sys2Proof.Machine

/-! # A step that runs an instruction (30_encoding.md R104) -/

namespace Sys2Proof.Machine

section Runs

variable {s : State}

/-- The state in which the instruction at PC runs: the inputs sampled, the word in IR, PC past it, no access error
pending, and a trace due if T is set (R392, R410). -/
def State.begun (s : State) : State :=
  { s.sampled with pc := s.pc + 2, ir := s.nextWord, window := .none, tracePending := s.tracing }

theorem fetchOpword_ok (h : s.canFetch = true) (hf : s.freshPc = true) :
    fetchOpword s.sampled = .ok s.nextWord s.begun := by
  unfold fetchOpword
  rw [run_look_bind, run_bind_ok (fetch16_ok (s := s.sampled) h hf)]
  rfl

/-- With nothing pending and the word at PC fetched, the step is the meaning of the word. -/
theorem step_runs (hrun : s.run = .running) (ht : s.tracePending = false) (hr : s.nextSample.reset = none)
    (hl : s.sampled.acceptedLevel = none) (h : s.canFetch = true) (hf : s.freshPc = true) :
    step s = execWord s.nextWord s.begun := by
  rw [step_quiet hr, boundaryStep_fetches hrun ht hl, runInstruction, fetchOpword_ok h hf]

end Runs

/-- Settles O56: the meaning of a word that decodes is that of the instruction. -/
theorem stepRunsDecodedInstruction : Obligations.StepRunsDecodedInstruction := by
  intro s i hrun ht hr hl h hf hd
  rw [step_runs hrun ht hr hl h hf, execWord, hd]
  rfl

/-- Settles O57: the saved PC is that of the word, not the one past it. -/
theorem unassignedWordIsIllegal : Obligations.UnassignedWordIsIllegal := by
  intro s e hrun ht hr hl h hf hd hc
  have enters : s.begun.canEnter 4 = true := (State.canEnter_congr rfl rfl rfl 4).trans hc
  have saved : s.begun.pc - 2 = s.pc := BitVec.add_sub_cancel s.pc 2
  rw [step_runs hrun ht hr hl h hf, execWord, hd]
  refine (execute_ok (raiseUnexecuted_ok enters)).trans ?_
  rw [saved]
  rfl

end Sys2Proof.Machine

/-! # Operation words (30_encoding.md R100 to R136, R150)

A field of an operation word is a number, and a word is the sum of its fields. Soundness (what is decoded encodes to the
word) follows the decoder; completeness (what is encoded decodes to the instruction) follows the instructions. -/

namespace Sys2Proof

/-! ## Bit fields (00_scope.md R9), and operands in them -/

theorem fld_lt (w : Word) (lo len : Nat) : fld w lo len < 2 ^ len := Nat.mod_lt _ (Nat.two_pow_pos len)

@[simp] theorem regFld_val (w : Word) (lo : Nat) : (regFld w lo).val = fld w lo 3 :=
  Nat.mod_eq_of_lt (fld_lt w lo 3)

@[simp] theorem Ea.regCode_lt (ea : Ea) : ea.regCode < 8 := by
  cases ea with
  | absW | absL | pcDisp | pcIndex | imm => decide
  | dn n | an n | ind n | post n | pre n | disp n | index n => exact n.isLt

@[simp] theorem Ea.mode_lt (ea : Ea) : ea.mode < 8 := by cases ea <;> simp [Ea.mode]

/-- The table of R108, read from the field to the mode. -/
@[simp] theorem Ea.decode_mode_regCode (ea : Ea) : Ea.decode ea.mode ea.regCode = some ea := by
  cases ea with
  | absW | absL | pcDisp | pcIndex | imm => rfl
  | dn n | an n | ind n | post n | pre n | disp n | index n => simp [Ea.mode, Ea.regCode, Ea.decode]

/-- The table of R108, read from the mode to the field. -/
theorem Ea.decode_some {m r : Nat} {ea : Ea} (hr : r < 8) (h : Ea.decode m r = some ea) :
    ea.mode = m ∧ ea.regCode = r := by
  unfold Ea.decode at h
  split at h
  case h_8 =>
    split at h <;> cases h <;> exact ⟨rfl, rfl⟩
  case h_9 => cases h
  all_goals cases h; exact ⟨rfl, Nat.mod_eq_of_lt hr⟩

/-- A bit field is its upper part above its lower part. -/
theorem fld_append (w : Word) (lo a b : Nat) : fld w lo (a + b) = fld w (lo + a) b * 2 ^ a + fld w lo a := by
  simp only [fld, pow_add, ← Nat.div_div_eq_div_mul, Nat.mod_mul]
  rw [Nat.mul_comm, Nat.add_comm]

/-- The upper part of a bit field. -/
theorem fld_high (w : Word) (lo a b : Nat) : fld w (lo + a) b = fld w lo (a + b) / 2 ^ a := by
  rw [fld_append, Nat.mul_comm, Nat.mul_add_div (Nat.two_pow_pos a), Nat.div_eq_of_lt (fld_lt w lo a), Nat.add_zero]

/-- The lower part of a bit field. -/
theorem fld_low (w : Word) (lo a b : Nat) : fld w lo a = fld w lo (a + b) % 2 ^ a := by
  rw [fld_append, Nat.mul_add_mod', Nat.mod_eq_of_lt (fld_lt w lo a)]

/-- A word is its fields. -/
theorem toNat_fields (w : Word) : w.toNat =
    fld w 12 4 * 4096 + fld w 9 3 * 512 + fld w 8 1 * 256 + fld w 6 2 * 64 + fld w 0 6 := by
  have whole : w.toNat = fld w 0 16 := by
    rw [fld, Nat.pow_zero, Nat.div_one, BitVec.toNat_mod_cancel]
  have r := fld_append w 0 12 4
  have d := fld_append w 0 9 3
  have s := fld_append w 0 8 1
  have x := fld_append w 0 6 2
  simp only [Nat.zero_add, Nat.reduceAdd, Nat.reducePow] at r d s x
  omega

/-- The same, of the values of the fields above the operand. -/
theorem fields_sum {w : Word} {g r d s : Nat} (hg : fld w 12 4 = g) (hr : fld w 9 3 = r) (hd : fld w 8 1 = d)
    (hs : fld w 6 2 = s) : g * 4096 + r * 512 + d * 256 + s * 64 + fld w 0 6 = w.toNat := by
  rw [toNat_fields w, hg, hr, hd, hs]

theorem reg_fields_sum {w : Word} {g d s : Nat} (hg : fld w 12 4 = g) (hd : fld w 8 1 = d) (hs : fld w 6 2 = s) :
    g * 4096 + d * 256 + s * 64 + (regFld w 9).val * 512 + fld w 0 6 = w.toNat := by
  rw [toNat_fields w, hg, hd, hs, regFld_val]
  omega

theorem reg_size_fields_sum {w : Word} {g d : Nat} (hg : fld w 12 4 = g) (hd : fld w 8 1 = d) :
    g * 4096 + d * 256 + (regFld w 9).val * 512 + fld w 6 2 * 64 + fld w 0 6 = w.toNat := by
  rw [toNat_fields w, hg, hd, regFld_val]
  omega

theorem ea_fields (w : Word) : fld w 0 6 = fld w 3 3 * 8 + fld w 0 3 := fld_append w 0 3 3

theorem fld_one (w : Word) (lo : Nat) : fld w lo 1 = 0 ∨ fld w lo 1 = 1 := by
  have := fld_lt w lo 1
  omega

theorem fld_two (w : Word) (lo : Nat) : fld w lo 2 = 0 ∨ fld w lo 2 = 1 ∨ fld w lo 2 = 2 ∨ fld w lo 2 = 3 := by
  have := fld_lt w lo 2
  omega

theorem fld_three (w : Word) (lo : Nat) : fld w lo 3 = 0 ∨ fld w lo 3 = 1 ∨ fld w lo 3 = 2 ∨ fld w lo 3 = 3 ∨
    fld w lo 3 = 4 ∨ fld w lo 3 = 5 ∨ fld w lo 3 = 6 ∨ fld w lo 3 = 7 := by
  have := fld_lt w lo 3
  omega

@[simp] theorem wideCode_wideOf (w : Word) (lo : Nat) : (wideOf (fld w lo 1)).wideCode = fld w lo 1 := by
  obtain e | e := fld_one w lo <;> rw [e] <;> rfl

@[simp] theorem code_pairOf (w : Word) (lo : Nat) : (pairOf (fld w lo 1)).code = fld w lo 1 := by
  obtain e | e := fld_one w lo <;> rw [e] <;> rfl

@[simp] theorem bitCode_fld (w : Word) (lo : Nat) : bitCode (decide (fld w lo 1 = 1)) = fld w lo 1 := by
  obtain e | e := fld_one w lo <;> rw [e] <;> rfl

@[simp] theorem toNat_ofNat_fld (w : Word) (lo len : Nat) : (BitVec.ofNat len (fld w lo len)).toNat = fld w lo len :=
  BitVec.toNat_ofNat .. ▸ Nat.mod_eq_of_lt (fld_lt w lo len)

theorem code_shiftCount (w : Word) (lo : Nat) (n : RegNo) :
    (if fld w lo 1 = 1 then ShiftCount.reg n else .quick n).code = n.val * 512 + fld w lo 1 * 32 := by
  obtain e | e := fld_one w lo <;> simp [e, ShiftCount.code]

theorem Cond.code_decode {n : Nat} (h : n < 16) : (Cond.decode n).code = n := by
  interval_cases n <;> rfl

/-! ## What the decoder reads has the word as its encoding (R136)

One rule for each piece of the decoder; a group of words is then the decoder's own text with a rule in each place, and
what remains is a sum of fields. -/

/-- What `r` reads from the word, if anything, has that word as its encoding. -/
def ReadsBack (w : Word) (r : Except DecodeError Instr) : Prop := ∀ i, r = .ok i → i.opNat = w.toNat

section ReadsBack

variable {w : Word} {other : Except DecodeError Instr} {n : Nat}

theorem ReadsBack.ok {i : Instr} (hi : i.opNat = n) (h : n = w.toNat) : ReadsBack w (.ok i) := by
  rintro _ ⟨⟩
  exact hi.trans h

theorem ReadsBack.error (e : DecodeError) : ReadsBack w (.error e) := by
  intro i h
  cases h

theorem ReadsBack.ite {c : Prop} [Decidable c] {r : Except DecodeError Instr} (hr : c → ReadsBack w r)
    (hother : ¬ c → ReadsBack w other) : ReadsBack w (if c then r else other) := by
  split
  case isTrue h => exact hr h
  case isFalse h => exact hother h

theorem ReadsBack.withEa {k : Ea → Instr} (hk : ∀ ea, (k ea).opNat = n + ea.code) (h : n + fld w 0 6 = w.toNat) :
    ReadsBack w (withEa w k) := by
  unfold Sys2Proof.withEa
  split
  · next ea hea =>
    obtain ⟨mode, reg⟩ := Ea.decode_some (fld_lt w 0 3) hea
    exact .ok (hk ea) (by rw [Ea.code, mode, reg, ← ea_fields, h])
  · exact .error _

theorem ReadsBack.withSize {k : Size → Except DecodeError Instr}
    (h : ∀ sz, sz.code = fld w 6 2 → ReadsBack w (k sz)) (hother : fld w 6 2 = 3 → ReadsBack w other) :
    ReadsBack w (withSize w k other) := by
  rcases fld_two w 6 with e | e | e | e <;> simp only [Sys2Proof.withSize, e]
  · exact h .b e.symm
  · exact h .w e.symm
  · exact h .l e.symm
  · exact hother e

theorem ReadsBack.withSizeEa {k : Size → Ea → Instr} (hk : ∀ sz ea, (k sz ea).opNat = n + sz.code * 64 + ea.code)
    (h : n + fld w 6 2 * 64 + fld w 0 6 = w.toNat) (hother : fld w 6 2 = 3 → ReadsBack w other) :
    ReadsBack w (withSizeEa w k other) :=
  .withSize (fun sz hsz => .withEa (hk sz) (by rw [hsz, h])) hother

end ReadsBack

section Groups

/-! The groups of R136, by `op[15:12]`. -/

variable {w : Word}

theorem readsBack_immOrStatus {n : Nat} {k : Size → Ea → Instr} {ccr sr : Instr} (hn : fld w 8 8 * 256 = n)
    (hk : ∀ sz ea, (k sz ea).opNat = n + sz.code * 64 + ea.code) (hccr : ccr.opNat = n + 0x3C)
    (hsr : sr.opNat = n + 0x7C) : ReadsBack w (immOrStatus w k ccr sr) := by
  have whole := toNat_fields w
  have high := fld_append w 8 1 7
  have group := fld_append w 9 3 4
  have low := fld_append w 0 6 2
  simp only [Nat.reduceAdd, Nat.reducePow] at high group low
  exact .ite (fun e => .ok hccr (by omega)) fun _ => .ite (fun e => .ok hsr (by omega)) fun _ =>
    .withSizeEa hk (by omega) fun _ => .error _

theorem readsBack_group0 (g : fld w 12 4 = 0) : ReadsBack w (decodeGroup0 w) := by
  have whole := toNat_fields w
  have ea := ea_fields w
  have dn := regFld_val w 9
  have an := regFld_val w 0
  have opmode := fld_append w 6 1 1
  have high := fld_append w 8 1 7
  have group := fld_append w 9 3 4
  simp only [Nat.reduceAdd, Nat.reducePow] at opmode high group
  unfold decodeGroup0
  refine .ite (fun d => .ite (fun m => ?movep) fun m => ?dynamic) fun d => ?immediate
  case movep =>
    have size := wideCode_wideOf w 6
    have direction := bitCode_fld w 7
    exact .ok (n := _ + _) rfl (by rw [encPair]; omega)
  case dynamic =>
    rcases fld_two w 6 with s | s | s | s <;> simp only [s] <;>
      exact .withEa (fun _ => rfl) (reg_fields_sum g d s)
  case immediate =>
    replace d : fld w 8 1 = 0 := (fld_one w 8).resolve_right d
    split
    case h_1 r | h_2 r | h_6 r => exact readsBack_immOrStatus (by omega) (fun _ _ => rfl) rfl rfl
    case h_3 r | h_4 r | h_7 r => exact .withSizeEa (fun _ _ => rfl) (fields_sum g r d rfl) fun _ => .error _
    case h_5 r =>
      rcases fld_two w 6 with s | s | s | s <;> simp only [s] <;> exact .withEa (fun _ => rfl) (fields_sum g r d s)
    case h_8 => exact .error _

theorem readsBack_move (sz : Size) (g : fld w 12 4 = sz.moveCode) : ReadsBack w (decodeMove sz w) := by
  have whole := toNat_fields w
  have an := regFld_val w 9
  have mode : fld w 6 3 = fld w 8 1 * 4 + fld w 6 2 := fld_append w 6 2 1
  refine .ite (fun m => .withEa (fun _ => rfl) (by omega)) fun m => ?_
  split
  · next dst hdst =>
    obtain ⟨hm, hr⟩ := Ea.decode_some (fld_lt w 9 3) hdst
    exact .withEa (fun _ => rfl) (by rw [Ea.dstCode]; omega)
  · exact .error _

/-- The words $4E40 to $4E7F (47_system_control.md R338). -/
theorem readsBack_system (g : fld w 12 4 = 4) (r : fld w 9 3 = 7) (d : fld w 8 1 = 0) (s : fld w 6 2 = 1) :
    ReadsBack w (decodeSystem w) := by
  have whole := toNat_fields w
  have ea := ea_fields w
  have an := regFld_val w 0
  unfold decodeSystem
  split
  case h_1 m | h_2 m =>
    have low : fld w 0 4 = fld w 3 1 * 8 + fld w 0 3 := fld_append w 0 3 1
    have mode : fld w 3 3 = fld w 4 2 * 2 + fld w 3 1 := fld_append w 3 1 2
    have vector : (Fin.ofNat 16 (fld w 0 4)).val = fld w 0 4 := Nat.mod_eq_of_lt (fld_lt w 0 4)
    exact .ok (n := _ + _) rfl (by omega)
  case h_7 m =>
    have sum : 0x4E70 + fld w 0 3 = w.toNat := by omega
    split
    case h_8 => exact .error _
    all_goals
      next e => exact .ok (by rw [e]; rfl) sum
  case h_8 => exact .error _
  all_goals exact .ok (n := _ + _) rfl (by omega)

theorem readsBack_group4 (g : fld w 12 4 = 4) : ReadsBack w (decodeGroup4 w) := by
  have whole := toNat_fields w
  have ea := ea_fields w
  have an := regFld_val w 0
  have size := wideCode_wideOf w 6
  have opmode : fld w 6 2 = fld w 7 1 * 2 + fld w 6 1 := fld_append w 6 1 1
  have bit := fld_one w 6
  unfold decodeGroup4
  refine .ite (fun d => ?_) fun d => ?_
  · rcases fld_two w 6 with s | s | s | s <;> simp only [s]
    case inl | inr.inl => exact .error _
    all_goals exact .withEa (fun _ => rfl) (reg_fields_sum g d s)
  replace d : fld w 8 1 = 0 := (fld_one w 8).resolve_right d
  split
  case h_1 r | h_3 r | h_4 r =>
    exact .withSizeEa (fun _ _ => rfl) (fields_sum g r d rfl) fun s => .withEa (fun _ => rfl) (fields_sum g r d s)
  case h_2 r => exact .withSizeEa (fun _ _ => rfl) (fields_sum g r d rfl) fun _ => .error _
  case h_5 r =>
    rcases fld_two w 6 with s | s | s | s <;> simp only [s]
    case inl => exact .withEa (fun _ => rfl) (fields_sum g r d s)
    case inr.inl =>
      exact .ite (fun _ => .ok (n := _ + _) rfl (by omega)) fun _ => .withEa (fun _ => rfl) (fields_sum g r d s)
    all_goals
      have sum : 0x4880 + (wideOf (fld w 6 1)).wideCode * 64 + fld w 0 6 = w.toNat := by omega
      exact .ite (fun m => .ok (n := _ + _) rfl (by rw [← sum, ea, m, an]; ring)) fun _ =>
        .ite (fun m => .ok (n := _ + _) rfl (by rw [← sum, ea, m, an]; ring)) fun _ => .withEa (fun _ => rfl) sum
  case h_6 r =>
    exact .ite (fun e => .ok rfl e.symm) fun _ => .withSizeEa (fun _ _ => rfl) (fields_sum g r d rfl) fun s =>
      .withEa (fun _ => rfl) (fields_sum g r d s)
  case h_7 => exact .ite (fun _ => .withEa (fun _ => rfl) (by omega)) fun _ => .error _
  case h_8 =>
    have r : fld w 9 3 = 7 := by
      have bound := fld_lt w 9 3
      interval_cases fld w 9 3 <;> trivial
    rcases fld_two w 6 with s | s | s | s <;> simp only [s]
    case inl => exact .error _
    case inr.inl => exact readsBack_system g r d s
    all_goals exact .withEa (fun _ => rfl) (fields_sum g r d s)

theorem readsBack_group5 (g : fld w 12 4 = 5) : ReadsBack w (decodeGroup5 w) := by
  have whole := toNat_fields w
  have ea := ea_fields w
  have q := regFld_val w 9
  have dn := regFld_val w 0
  have cond := Cond.code_decode (fld_lt w 8 4)
  have high : fld w 8 4 = fld w 9 3 * 2 + fld w 8 1 := fld_append w 8 1 3
  have operation : ∀ sz ea,
      (if fld w 8 1 = 0 then Instr.addq sz (regFld w 9) ea else .subq sz (regFld w 9) ea).opNat =
      0x5000 + fld w 8 1 * 256 + (regFld w 9).val * 512 + sz.code * 64 + ea.code := by
    intro sz ea
    obtain d | d := fld_one w 8 <;> rw [d] <;> rfl
  exact .withSizeEa operation (by omega) fun _ =>
    .ite (fun _ => .ok (n := _ + _) rfl (by omega)) fun _ => .withEa (fun _ => rfl) (by omega)

theorem readsBack_group6 (g : fld w 12 4 = 6) : ReadsBack w (decodeGroup6 w) := by
  have whole := toNat_fields w
  have displacement := toNat_ofNat_fld w 0 8
  have cond := Cond.code_decode (fld_lt w 8 4)
  have high : fld w 8 4 = fld w 9 3 * 2 + fld w 8 1 := fld_append w 8 1 3
  have low : fld w 0 8 = fld w 6 2 * 64 + fld w 0 6 := fld_append w 0 6 2
  unfold decodeGroup6
  split <;> exact .ok (n := _ + _) rfl (by omega)

/-- An operation on a register, with a size or, for the size field 11, with none of its own. -/
theorem readsBack_regEa {n d : Nat} (g : fld w 12 4 = n) (hd : fld w 8 1 = d) {sized : Size → RegNo → Ea → Instr}
    {other : RegNo → Ea → Instr}
    (hs : ∀ sz ea, (sized sz (regFld w 9) ea).opNat =
      n * 4096 + d * 256 + (regFld w 9).val * 512 + sz.code * 64 + ea.code)
    (ho : ∀ ea, (other (regFld w 9) ea).opNat = n * 4096 + d * 256 + 3 * 64 + (regFld w 9).val * 512 + ea.code) :
    ReadsBack w (withSizeEa w (fun sz ea => sized sz (regFld w 9) ea) (withEa w (other (regFld w 9)))) :=
  .withSizeEa hs (reg_size_fields_sum g hd) fun s => .withEa ho (reg_fields_sum g hd s)

theorem readsBack_group8 (g : fld w 12 4 = 8) : ReadsBack w (decodeGroup8 w) := by
  have whole := toNat_fields w
  have ea := ea_fields w
  have dn := regFld_val w 9
  have y := regFld_val w 0
  have m := code_pairOf w 3
  have mode : fld w 3 3 = fld w 4 2 * 2 + fld w 3 1 := fld_append w 3 1 2
  have opmode : fld w 4 5 = fld w 6 3 * 4 + fld w 4 2 := fld_append w 4 2 3
  have direction : fld w 6 3 = fld w 8 1 * 4 + fld w 6 2 := fld_append w 6 2 1
  exact .ite (fun _ => .ok (n := _ + _) rfl (by rw [encPair]; omega)) fun _ =>
    .ite (fun d => readsBack_regEa g d (fun _ _ => rfl) fun _ => rfl)
    fun d => readsBack_regEa g ((fld_one w 8).resolve_left d) (fun _ _ => rfl) fun _ => rfl

/-- The layout of groups 1001 and 1101: a sum or difference to a register, to memory, extended, and of addresses. -/
theorem readsBack_sumGroup {n : Nat} (g : fld w 12 4 = n) {addr : Size → RegNo → Ea → Instr}
    {toDn toEa : Size → RegNo → Ea → Instr} {ext : Size → PairMode → RegNo → RegNo → Instr}
    (ha : ∀ sz x ea, (addr sz x ea).opNat = n * 4096 + 0xC0 + x.val * 512 + sz.wideCode * 256 + ea.code)
    (hd : ∀ sz x ea, (toDn sz x ea).opNat = n * 4096 + x.val * 512 + sz.code * 64 + ea.code)
    (he : ∀ sz x ea, (toEa sz x ea).opNat = n * 4096 + 0x100 + x.val * 512 + sz.code * 64 + ea.code)
    (hx : ∀ sz m x y, (ext sz m x y).opNat = n * 4096 + 0x100 + x.val * 512 + y.val + sz.code * 64 + m.code * 8) :
    ReadsBack w (
      if fld w 6 2 = 3 then withEa w (addr (wideOf (fld w 8 1)) (regFld w 9))
      else if fld w 8 1 = 0 then withSizeEa w (fun sz ea => toDn sz (regFld w 9) ea) (.error .unassigned)
      else if fld w 4 2 = 0 then
        withSize w (fun sz => .ok (ext sz (pairOf (fld w 3 1)) (regFld w 9) (regFld w 0))) (.error .unassigned)
      else withSizeEa w (fun sz ea => toEa sz (regFld w 9) ea) (.error .unassigned)) := by
  have whole := toNat_fields w
  have ea := ea_fields w
  have dn := regFld_val w 9
  have y := regFld_val w 0
  have m := code_pairOf w 3
  have size := wideCode_wideOf w 8
  have bit := fld_one w 8
  have mode : fld w 3 3 = fld w 4 2 * 2 + fld w 3 1 := fld_append w 3 1 2
  exact .ite (fun _ => .withEa (ha _ _) (by omega)) fun _ =>
    .ite (fun d => .withSizeEa (fun sz => hd sz _) (by simpa using reg_size_fields_sum g d) fun _ => .error _) fun d =>
    .ite (fun _ => .withSize (fun sz hsz => .ok (hx sz _ _ _) (by omega)) fun _ => .error _) fun _ =>
    .withSizeEa (fun sz => he sz _) (reg_size_fields_sum g ((fld_one w 8).resolve_left d)) fun _ => .error _

theorem readsBack_group9 (g : fld w 12 4 = 9) : ReadsBack w (decodeGroup9 w) :=
  readsBack_sumGroup g (fun _ _ _ => rfl) (fun _ _ _ => rfl) (fun _ _ _ => rfl) fun _ _ _ _ => rfl

theorem readsBack_groupD (g : fld w 12 4 = 13) : ReadsBack w (decodeGroupD w) :=
  readsBack_sumGroup g (fun _ _ _ => rfl) (fun _ _ _ => rfl) (fun _ _ _ => rfl) fun _ _ _ _ => rfl

theorem readsBack_groupB (g : fld w 12 4 = 11) : ReadsBack w (decodeGroupB w) := by
  have whole := toNat_fields w
  have ea := ea_fields w
  have dn := regFld_val w 9
  have y := regFld_val w 0
  have size := wideCode_wideOf w 8
  have bit := fld_one w 8
  exact .ite (fun _ => .withEa (fun _ => rfl) (by omega)) fun _ =>
    .ite (fun d => .withSizeEa (fun _ _ => rfl) (reg_size_fields_sum g d) fun _ => .error _) fun d =>
    .ite (fun _ => .withSize (fun sz hsz => .ok (n := _ + _) rfl (by rw [encPair]; omega)) fun _ => .error _) fun _ =>
    .withSizeEa (fun _ _ => rfl) (reg_size_fields_sum g ((fld_one w 8).resolve_left d)) fun _ => .error _

theorem readsBack_groupC (g : fld w 12 4 = 12) : ReadsBack w (decodeGroupC w) := by
  have whole := toNat_fields w
  have ea := ea_fields w
  have dn := regFld_val w 9
  have y := regFld_val w 0
  have m := code_pairOf w 3
  have mode : fld w 3 3 = fld w 4 2 * 2 + fld w 3 1 := fld_append w 3 1 2
  have opmode : fld w 4 5 = fld w 6 3 * 4 + fld w 4 2 := fld_append w 4 2 3
  have direction : fld w 6 3 = fld w 8 1 * 4 + fld w 6 2 := fld_append w 6 2 1
  have exg : fld w 3 6 = fld w 6 3 * 8 + fld w 3 3 := fld_append w 3 3 3
  have pair : encPair 0xC000 (regFld w 9) (regFld w 0) + fld w 3 6 * 8 = w.toNat := by
    rw [encPair]
    omega
  refine .ite (fun e => .ok (n := _ + _) rfl (by rw [encPair]; omega)) fun _ =>
    .ite (fun e => .ok (n := encPair _ _ _) rfl ?_) fun _ => .ite (fun e => .ok (n := encPair _ _ _) rfl ?_) fun _ =>
    .ite (fun e => .ok (n := encPair _ _ _) rfl ?_) fun _ =>
    .ite (fun d => readsBack_regEa g d (fun _ _ => rfl) fun _ => rfl)
    fun d => readsBack_regEa g ((fld_one w 8).resolve_left d) (fun _ _ => rfl) fun _ => rfl
  all_goals
    rw [← pair, e, encPair, encPair]
    ring

theorem readsBack_memShift (g : fld w 12 4 = 14) (t : fld w 11 1 = 0) (s : fld w 6 2 = 3) :
    ReadsBack w (decodeMemShift w) := by
  have whole := toNat_fields w
  have op : fld w 8 3 = fld w 9 2 * 2 + fld w 8 1 := fld_append w 8 1 2
  have high : fld w 9 3 = fld w 11 1 * 4 + fld w 9 2 := fld_append w 9 2 1
  have sum : 0xE0C0 + fld w 8 3 * 256 + fld w 0 6 = w.toNat := by omega
  unfold decodeMemShift
  rcases fld_three w 8 with e | e | e | e | e | e | e | e <;> rw [e] at sum <;> simp only [e] <;>
    exact .withEa (fun _ => rfl) sum

theorem readsBack_regShift (g : fld w 12 4 = 14) {sz : Size} (hsz : sz.code = fld w 6 2) :
    ReadsBack w (.ok (decodeRegShift w sz)) := by
  have whole := toNat_fields w
  have ea := ea_fields w
  have dn := regFld_val w 0
  have cn := regFld_val w 9
  have count := code_shiftCount w 5 (regFld w 9)
  have mode : fld w 3 3 = fld w 5 1 * 4 + fld w 3 2 := fld_append w 3 2 1
  unfold decodeRegShift
  generalize (if fld w 5 1 = 1 then ShiftCount.reg (regFld w 9) else .quick (regFld w 9)) = cnt at count
  have sum : encShift (0xE000 + fld w 8 1 * 256 + fld w 3 2 * 8) sz cnt (regFld w 0) = w.toNat := by
    rw [encShift]
    omega
  rcases fld_two w 3 with t | t | t | t <;> rcases fld_one w 8 with d | d <;> rw [t, d] at sum <;>
    simp only [t, d] <;> exact .ok rfl sum

theorem readsBack_groupE (g : fld w 12 4 = 14) : ReadsBack w (decodeGroupE w) :=
  .withSize (fun _ hsz => readsBack_regShift g hsz) fun s => .ite (fun t => readsBack_memShift g t s) fun _ => .error _

theorem decodePattern_readsBack (w : Word) : ReadsBack w (decodePattern w) := by
  have whole := toNat_fields w
  have low : fld w 0 8 = fld w 6 2 * 64 + fld w 0 6 := fld_append w 0 6 2
  have line : fld w 0 12 = fld w 9 3 * 512 + fld w 0 9 := fld_append w 0 9 3
  have opmode : fld w 0 9 = fld w 8 1 * 256 + fld w 0 8 := fld_append w 0 8 1
  have emulated := toNat_ofNat_fld w 0 12
  have bound := fld_lt w 12 4
  unfold decodePattern
  split
  case h_1 g => exact readsBack_group0 g
  case h_2 g | h_3 g | h_4 g => exact readsBack_move _ g
  case h_5 g => exact readsBack_group4 g
  case h_6 g => exact readsBack_group5 g
  case h_7 g => exact readsBack_group6 g
  case h_8 g =>
    have dn := regFld_val w 9
    have data := toNat_ofNat_fld w 0 8
    exact .ite (fun _ => .ok (n := _ + _) rfl (by omega)) fun _ => .error _
  case h_9 g => exact readsBack_group8 g
  case h_10 g => exact readsBack_group9 g
  case h_12 g => exact readsBack_groupB g
  case h_13 g => exact readsBack_groupC g
  case h_14 g => exact readsBack_groupD g
  case h_15 g => exact readsBack_groupE g
  case h_11 g => exact .ok (n := _ + _) rfl (by omega)
  case h_16 =>
    have g : fld w 12 4 = 15 := by interval_cases fld w 12 4 <;> trivial
    exact .ok (n := _ + _) rfl (by omega)

end Groups

theorem decode_ok {w : Word} {i : Instr} (h : decode w = .ok i) : decodePattern w = .ok i ∧ i.wf = true := by
  unfold decode at h
  split at h
  · next j hj =>
    split at h
    · next wf =>
      cases h
      exact ⟨hj, wf⟩
    · cases h
  · cases h

/-- Settles O2: the last check of the decoder is well-formedness, and what its pattern reads has this word. -/
theorem decodedInstructionIsWellFormed : Obligations.DecodedInstructionIsWellFormed := by
  intro w i h
  obtain ⟨pattern, wf⟩ := decode_ok h
  refine ⟨wf, ?_⟩
  rw [encode, decodePattern_readsBack w i pattern, BitVec.ofNat_toNat, BitVec.setWidth_eq]

/-! ## The decoder reads what the encoder writes (R100, R103)

An operation word put together from its fields gives them back; from there each instruction is the decoder run on the
fields that its rule prints. -/

/-- The operation word of the layout that most rules have: group, register, operation mode and operand (R103). -/
def opWord (g r o x : Nat) : Word := BitVec.ofNat 16 (g * 4096 + r * 512 + o * 64 + x)

section Fields

variable {g r o x : Nat} (hg : g < 16) (hr : r < 8) (ho : o < 8) (hx : x < 64)

include hg hr ho hx

theorem fld_opWord (lo len : Nat) :
    fld (opWord g r o x) lo len = (g * 4096 + r * 512 + o * 64 + x) / 2 ^ lo % 2 ^ len := by
  have fits : g * 4096 + r * 512 + o * 64 + x < 2 ^ 16 := by omega
  rw [fld, opWord, BitVec.toNat_ofNat, Nat.mod_eq_of_lt fits]

@[simp] theorem opWord_group : fld (opWord g r o x) 12 4 = g := by rw [fld_opWord hg hr ho hx]; omega
@[simp] theorem opWord_9_3 : fld (opWord g r o x) 9 3 = r := by rw [fld_opWord hg hr ho hx]; omega
@[simp] theorem opWord_6_3 : fld (opWord g r o x) 6 3 = o := by rw [fld_opWord hg hr ho hx]; omega
theorem opWord_0_6 : fld (opWord g r o x) 0 6 = x := by rw [fld_opWord hg hr ho hx]; omega

/-! The parts of the four fields. -/

@[simp] theorem opWord_11_1 : fld (opWord g r o x) 11 1 = r / 4 :=
  (fld_high _ 9 2 1).trans (congrArg (· / 4) (opWord_9_3 hg hr ho hx))
theorem opWord_9_2 : fld (opWord g r o x) 9 2 = r % 4 :=
  (fld_low _ 9 2 1).trans (congrArg (· % 4) (opWord_9_3 hg hr ho hx))
@[simp] theorem opWord_8_1 : fld (opWord g r o x) 8 1 = o / 4 :=
  (fld_high _ 6 2 1).trans (congrArg (· / 4) (opWord_6_3 hg hr ho hx))
@[simp] theorem opWord_6_2 : fld (opWord g r o x) 6 2 = o % 4 :=
  (fld_low _ 6 2 1).trans (congrArg (· % 4) (opWord_6_3 hg hr ho hx))
@[simp] theorem opWord_6_1 : fld (opWord g r o x) 6 1 = o % 2 :=
  (fld_low _ 6 1 2).trans (congrArg (· % 2) (opWord_6_3 hg hr ho hx))
theorem opWord_7_2 : fld (opWord g r o x) 7 2 = o / 2 :=
  (fld_high _ 6 1 2).trans (congrArg (· / 2) (opWord_6_3 hg hr ho hx))
@[simp] theorem opWord_7_1 : fld (opWord g r o x) 7 1 = o / 2 % 2 :=
  (fld_low _ 7 1 1).trans (congrArg (· % 2) (opWord_7_2 hg hr ho hx))
@[simp] theorem opWord_5_1 : fld (opWord g r o x) 5 1 = x / 32 :=
  (fld_high _ 0 5 1).trans (congrArg (· / 32) (opWord_0_6 hg hr ho hx))
theorem opWord_4_2 : fld (opWord g r o x) 4 2 = x / 16 :=
  (fld_high _ 0 4 2).trans (congrArg (· / 16) (opWord_0_6 hg hr ho hx))
@[simp] theorem opWord_3_3 : fld (opWord g r o x) 3 3 = x / 8 :=
  (fld_high _ 0 3 3).trans (congrArg (· / 8) (opWord_0_6 hg hr ho hx))
@[simp] theorem opWord_3_2 : fld (opWord g r o x) 3 2 = x / 8 % 4 :=
  (fld_low _ 3 2 1).trans (congrArg (· % 4) (opWord_3_3 hg hr ho hx))
@[simp] theorem opWord_3_1 : fld (opWord g r o x) 3 1 = x / 8 % 2 :=
  (fld_low _ 3 1 2).trans (congrArg (· % 2) (opWord_3_3 hg hr ho hx))
@[simp] theorem opWord_0_4 : fld (opWord g r o x) 0 4 = x % 16 :=
  (fld_low _ 0 4 2).trans (congrArg (· % 16) (opWord_0_6 hg hr ho hx))
@[simp] theorem opWord_0_3 : fld (opWord g r o x) 0 3 = x % 8 :=
  (fld_low _ 0 3 3).trans (congrArg (· % 8) (opWord_0_6 hg hr ho hx))

/-! The fields that reach from one of the four into another. -/

@[simp] theorem opWord_8_4 : fld (opWord g r o x) 8 4 = r * 2 + o / 4 :=
  (fld_append _ 8 1 3).trans (congrArg₂ (· * 2 + ·) (opWord_9_3 hg hr ho hx) (opWord_8_1 hg hr ho hx))
@[simp] theorem opWord_8_3 : fld (opWord g r o x) 8 3 = r % 4 * 2 + o / 4 :=
  (fld_append _ 8 1 2).trans (congrArg₂ (· * 2 + ·) (opWord_9_2 hg hr ho hx) (opWord_8_1 hg hr ho hx))
theorem opWord_4_5 : fld (opWord g r o x) 4 5 = o * 4 + x / 16 :=
  (fld_append _ 4 2 3).trans (congrArg₂ (· * 4 + ·) (opWord_6_3 hg hr ho hx) (opWord_4_2 hg hr ho hx))
theorem opWord_3_6 : fld (opWord g r o x) 3 6 = o * 8 + x / 8 :=
  (fld_append _ 3 3 3).trans (congrArg₂ (· * 8 + ·) (opWord_6_3 hg hr ho hx) (opWord_3_3 hg hr ho hx))
theorem opWord_0_8 : fld (opWord g r o x) 0 8 = o % 4 * 64 + x :=
  (fld_append _ 0 6 2).trans (congrArg₂ (· * 64 + ·) (opWord_6_2 hg hr ho hx) (opWord_0_6 hg hr ho hx))

/-! The tests for a pattern of several fields. -/

@[simp] theorem opWord_bcd_iff : fld (opWord g r o x) 4 5 = 0x10 ↔ o = 4 ∧ (x / 8 = 0 ∨ x / 8 = 1) := by
  rw [opWord_4_5 hg hr ho hx]; omega
@[simp] theorem opWord_extended_iff : fld (opWord g r o x) 4 2 = 0 ↔ x / 8 = 0 ∨ x / 8 = 1 := by
  rw [opWord_4_2 hg hr ho hx]; omega
@[simp] theorem opWord_exgDD_iff : fld (opWord g r o x) 3 6 = 0x28 ↔ o = 5 ∧ x / 8 = 0 := by
  rw [opWord_3_6 hg hr ho hx]; omega
@[simp] theorem opWord_exgAA_iff : fld (opWord g r o x) 3 6 = 0x29 ↔ o = 5 ∧ x / 8 = 1 := by
  rw [opWord_3_6 hg hr ho hx]; omega
@[simp] theorem opWord_exgDA_iff : fld (opWord g r o x) 3 6 = 0x31 ↔ o = 6 ∧ x / 8 = 1 := by
  rw [opWord_3_6 hg hr ho hx]; omega
@[simp] theorem opWord_ccr_iff : fld (opWord g r o x) 0 8 = 0x3C ↔ o % 4 = 0 ∧ x = 60 := by
  rw [opWord_0_8 hg hr ho hx]; omega
@[simp] theorem opWord_sr_iff : fld (opWord g r o x) 0 8 = 0x7C ↔ o % 4 = 1 ∧ x = 60 := by
  rw [opWord_0_8 hg hr ho hx]; omega
@[simp] theorem opWord_illegal_iff : (opWord g r o x).toNat = 0x4AFC ↔ g = 4 ∧ r = 5 ∧ o = 3 ∧ x = 60 := by
  have fits : g * 4096 + r * 512 + o * 64 + x < 2 ^ 16 := by omega
  rw [opWord, BitVec.toNat_ofNat, Nat.mod_eq_of_lt fits]
  omega

end Fields

section Pattern

/-! The group of a word chooses its decoder (R136). -/

variable {r o x : Nat} (hr : r < 8) (ho : o < 8) (hx : x < 64)

include hr ho hx

@[simp] theorem decodePattern_opWord_0 : decodePattern (opWord 0 r o x) = decodeGroup0 (opWord 0 r o x) := by
  simp [decodePattern, hr, ho, hx]
@[simp] theorem decodePattern_opWord_1 : decodePattern (opWord 1 r o x) = decodeMove .b (opWord 1 r o x) := by
  simp [decodePattern, hr, ho, hx]
@[simp] theorem decodePattern_opWord_2 : decodePattern (opWord 2 r o x) = decodeMove .l (opWord 2 r o x) := by
  simp [decodePattern, hr, ho, hx]
@[simp] theorem decodePattern_opWord_3 : decodePattern (opWord 3 r o x) = decodeMove .w (opWord 3 r o x) := by
  simp [decodePattern, hr, ho, hx]
@[simp] theorem decodePattern_opWord_4 : decodePattern (opWord 4 r o x) = decodeGroup4 (opWord 4 r o x) := by
  simp [decodePattern, hr, ho, hx]
@[simp] theorem decodePattern_opWord_5 : decodePattern (opWord 5 r o x) = decodeGroup5 (opWord 5 r o x) := by
  simp [decodePattern, hr, ho, hx]
@[simp] theorem decodePattern_opWord_8 : decodePattern (opWord 8 r o x) = decodeGroup8 (opWord 8 r o x) := by
  simp [decodePattern, hr, ho, hx]
@[simp] theorem decodePattern_opWord_9 : decodePattern (opWord 9 r o x) = decodeGroup9 (opWord 9 r o x) := by
  simp [decodePattern, hr, ho, hx]
@[simp] theorem decodePattern_opWord_B : decodePattern (opWord 11 r o x) = decodeGroupB (opWord 11 r o x) := by
  simp [decodePattern, hr, ho, hx]
@[simp] theorem decodePattern_opWord_C : decodePattern (opWord 12 r o x) = decodeGroupC (opWord 12 r o x) := by
  simp [decodePattern, hr, ho, hx]
@[simp] theorem decodePattern_opWord_D : decodePattern (opWord 13 r o x) = decodeGroupD (opWord 13 r o x) := by
  simp [decodePattern, hr, ho, hx]
@[simp] theorem decodePattern_opWord_E : decodePattern (opWord 14 r o x) = decodeGroupE (opWord 14 r o x) := by
  simp [decodePattern, hr, ho, hx]

end Pattern

/-! What stands in the operand field: an effective address, or a register below some bits. -/

@[simp] theorem Ea.code_lt (ea : Ea) : ea.code < 64 := by
  have reg := ea.regCode_lt
  have mode := ea.mode_lt
  rw [Ea.code]
  omega

@[simp] theorem Ea.code_div (ea : Ea) : ea.code / 8 = ea.mode := by
  have reg := ea.regCode_lt
  rw [Ea.code]
  omega

@[simp] theorem Ea.code_mod (ea : Ea) : ea.code % 8 = ea.regCode := by
  have reg := ea.regCode_lt
  rw [Ea.code]
  omega

section Reg

variable {b : Nat} (n : RegNo)

@[simp] theorem RegNo.div_eight : n.val / 8 = 0 := Nat.div_eq_of_lt n.isLt
@[simp] theorem RegNo.mod_eight : n.val % 8 = n.val := Nat.mod_eq_of_lt n.isLt
@[simp] theorem RegNo.lt_field : n.val < 64 := by omega
@[simp] theorem RegNo.add_div_eight (h : b % 8 = 0) : (b + n.val) / 8 = b / 8 := by omega
@[simp] theorem RegNo.add_mod_eight (h : b % 8 = 0) : (b + n.val) % 8 = n.val := by omega
@[simp] theorem RegNo.add_lt_field (h : b % 8 = 0) (hb : b < 64) : b + n.val < 64 := by omega
@[simp] theorem RegNo.ofNat_val : Fin.ofNat 8 n.val = n := Fin.ofNat_val_eq_self n

end Reg

/-! The parts of the decoder that read one field. -/

section Read

variable {g r o x : Nat} {n : RegNo}

@[simp] theorem withEa_opWord {ea : Ea} {k : Ea → Instr} (hg : g < 16) (hr : r < 8) (ho : o < 8) :
    withEa (opWord g r o ea.code) k = .ok (k ea) := by
  simp [withEa, hg, hr, ho]

@[simp] theorem regFld_opWord_9 (hg : g < 16) (ho : o < 8) (hx : x < 64) : regFld (opWord g n.val o x) 9 = n := by
  simp [regFld, hg, ho, hx]

@[simp] theorem regFld_opWord_0 (hg : g < 16) (hr : r < 8) (ho : o < 8) : regFld (opWord g r o n.val) 0 = n := by
  simp [regFld, hg, hr, ho]

@[simp] theorem regFld_opWord_0_add {b : Nat} (hg : g < 16) (hr : r < 8) (ho : o < 8) (h : b % 8 = 0) (hb : b < 64) :
    regFld (opWord g r o (b + n.val)) 0 = n := by
  simp [regFld, hg, hr, ho, h, hb]

/-! The size field, alone and below a direction bit. -/

theorem Size.code_lt (sz : Size) : sz.code < 3 := by cases sz <;> decide

theorem withSize_of_fld {w : Word} {sz : Size} {k : Size → Except DecodeError Instr}
    {other : Except DecodeError Instr} (h : fld w 6 2 = sz.code) : withSize w k other = k sz := by
  rw [withSize, h]
  cases sz <;> rfl

@[simp] theorem withSize_opWord {sz : Size} {k : Size → Except DecodeError Instr} {other : Except DecodeError Instr}
    (hg : g < 16) (hr : r < 8) (hx : x < 64) : withSize (opWord g r sz.code x) k other = k sz := by
  have bound := sz.code_lt
  apply withSize_of_fld
  rw [opWord_6_2 hg hr (by omega) hx]
  omega

@[simp] theorem withSize_opWord_add {sz : Size} {k : Size → Except DecodeError Instr}
    {other : Except DecodeError Instr} (hg : g < 16) (hr : r < 8) (hx : x < 64) : withSize (opWord g r (4 + sz.code) x) k other = k sz := by
  have bound := sz.code_lt
  apply withSize_of_fld
  rw [opWord_6_2 hg hr (by omega) hx]
  omega

@[simp] theorem withSize_opWord_other {k : Size → Except DecodeError Instr} {other : Except DecodeError Instr}
    (hg : g < 16) (hr : r < 8) (ho : o < 8) (hx : x < 64) (h : o % 4 = 3) :
    withSize (opWord g r o x) k other = other := by
  simp [withSize, hg, hr, ho, hx, h]

@[simp] theorem Size.code_lt_eight (sz : Size) : sz.code < 8 := by cases sz <;> decide
@[simp] theorem Size.add_code_lt_eight (sz : Size) : 4 + sz.code < 8 := by cases sz <;> decide
@[simp] theorem Size.code_div_four (sz : Size) : sz.code / 4 = 0 := by cases sz <;> rfl
@[simp] theorem Size.add_code_div_four (sz : Size) : (4 + sz.code) / 4 = 1 := by cases sz <;> rfl
@[simp] theorem Size.code_mod_four (sz : Size) : sz.code % 4 = sz.code := by cases sz <;> rfl
@[simp] theorem Size.add_code_mod_four (sz : Size) : (4 + sz.code) % 4 = sz.code := by cases sz <;> rfl

/-- The size field 11 and what lies above it are no sizes. -/
@[simp] theorem Size.code_ne (sz : Size) {k : Nat} (h : 3 ≤ k) : sz.code ≠ k := by
  have := sz.code_lt
  omega

@[simp] theorem Cond.decode_code (c : Cond) : Cond.decode c.code = c := by cases c <;> rfl

@[simp] theorem Cond.code_high_lt (c : Cond) : c.code / 2 < 8 := by cases c <;> decide
@[simp] theorem Cond.code_low_lt (c : Cond) : c.code % 2 * 4 + 3 < 8 := by cases c <;> decide

/-- The size field 11 of group 0101: Scc, or DBcc in place of the mode An (R136). -/
theorem decodeGroup5_cond (c : Cond) (hx : x < 64) :
    decodeGroup5 (opWord 5 (c.code / 2) (c.code % 2 * 4 + 3) x) =
      if x / 8 = 1 then .ok (.dbcc c (regFld (opWord 5 (c.code / 2) (c.code % 2 * 4 + 3) x) 0))
      else withEa (opWord 5 (c.code / 2) (c.code % 2 * 4 + 3) x) (.scc c) := by
  have code : c.code / 2 * 2 + (c.code % 2 * 4 + 3) / 4 = c.code := by omega
  have mode : (c.code % 2 * 4 + 3) % 4 = 3 := by omega
  simp [decodeGroup5, withSizeEa, hx, code, mode]

end Read

/-! Which operand fields an instruction's list leaves out (R122, R124). -/

theorem Ea.mode_of_isData {ea : Ea} (h : ea.isData = true) : ea.mode ≠ 1 := by
  cases ea <;> simp [Ea.isData, Ea.isAn, Ea.mode] at h ⊢

theorem Ea.mode_of_isMemory {ea : Ea} (h : ea.isMemory = true) : ea.mode ≠ 0 ∧ ea.mode ≠ 1 := by
  cases ea <;> simp [Ea.isMemory, Ea.mode] at h ⊢

theorem Ea.mode_of_isControl {ea : Ea} (h : ea.isControl = true) : ea.mode ≠ 0 ∧ ea.mode ≠ 4 := by
  cases ea <;> simp [Ea.isControl, Ea.mode] at h ⊢

theorem Ea.code_of_isAlterable {ea : Ea} (h : ea.isAlterable = true) : ea.code ≠ 60 := by
  cases ea <;> simp [Ea.isAlterable, Ea.code, Ea.mode, Ea.regCode] at h ⊢ <;> omega

theorem Ea.of_isDataAlterable {ea : Ea} (h : ea.isDataAlterable = true) : ea.mode ≠ 1 ∧ ea.code ≠ 60 :=
  have ⟨data, alterable⟩ := (Bool.and_eq_true _ _).mp h
  ⟨mode_of_isData data, code_of_isAlterable alterable⟩

theorem Ea.of_isMemAlterable {ea : Ea} (h : ea.isMemAlterable = true) : ea.mode ≠ 0 ∧ ea.mode ≠ 1 :=
  mode_of_isMemory ((Bool.and_eq_true _ _).mp h).1

/-- An instruction with these fields in its operation word is what the decoder reads from them. -/
theorem decodePattern_of_fields {i : Instr} (g r o x : Nat) {n : Nat} (hi : i.opNat = n)
    (hn : n = g * 4096 + r * 512 + o * 64 + x) (hd : decodePattern (opWord g r o x) = .ok i) :
    decodePattern (BitVec.ofNat 16 i.opNat) = .ok i := by
  rw [hi, hn]
  exact hd

/-! The layouts that many rules share, each above a base word b (R103, R105). -/

section Layouts

variable {i : Instr} {b : Nat} {sz : Size} {ea : Ea} {n x y : RegNo} {m : PairMode}

theorem decodePattern_of_ea (hi : i.opNat = b + ea.code) (hb : b % 64 = 0)
    (hd : decodePattern (opWord (b / 4096) (b / 512 % 8) (b / 64 % 8) ea.code) = .ok i) :
    decodePattern (BitVec.ofNat 16 i.opNat) = .ok i := decodePattern_of_fields _ _ _ _ hi (by omega) hd

theorem decodePattern_of_regEa (hi : i.opNat = b + n.val * 512 + ea.code) (hb : b % 64 = 0 ∧ b / 512 % 8 = 0)
    (hd : decodePattern (opWord (b / 4096) n.val (b / 64 % 8) ea.code) = .ok i) :
    decodePattern (BitVec.ofNat 16 i.opNat) = .ok i := decodePattern_of_fields _ _ _ _ hi (by omega) hd

theorem decodePattern_of_sizeEa (hi : i.opNat = b + sz.code * 64 + ea.code) (hb : b % 256 = 0)
    (hd : decodePattern (opWord (b / 4096) (b / 512 % 8) (b / 256 % 2 * 4 + sz.code) ea.code) = .ok i) :
    decodePattern (BitVec.ofNat 16 i.opNat) = .ok i := decodePattern_of_fields _ _ _ _ hi (by omega) hd

theorem decodePattern_of_regSizeEa (hi : i.opNat = b + n.val * 512 + sz.code * 64 + ea.code)
    (hb : b % 256 = 0 ∧ b / 512 % 8 = 0)
    (hd : decodePattern (opWord (b / 4096) n.val (b / 256 % 2 * 4 + sz.code) ea.code) = .ok i) :
    decodePattern (BitVec.ofNat 16 i.opNat) = .ok i := decodePattern_of_fields _ _ _ _ hi (by omega) hd

theorem decodePattern_of_wideEa (hi : i.opNat = b + sz.wideCode * 64 + ea.code) (hb : b % 64 = 0)
    (hd : decodePattern (opWord (b / 4096) (b / 512 % 8) (b / 64 % 8 + sz.wideCode) ea.code) = .ok i) :
    decodePattern (BitVec.ofNat 16 i.opNat) = .ok i := decodePattern_of_fields _ _ _ _ hi (by omega) hd

theorem decodePattern_of_regWideEa (hi : i.opNat = b + n.val * 512 + sz.wideCode * 256 + ea.code)
    (hb : b % 64 = 0 ∧ b / 512 % 8 = 0)
    (hd : decodePattern (opWord (b / 4096) n.val (b / 64 % 8 + sz.wideCode * 4) ea.code) = .ok i) :
    decodePattern (BitVec.ofNat 16 i.opNat) = .ok i := decodePattern_of_fields _ _ _ _ hi (by omega) hd

theorem decodePattern_of_reg (hi : i.opNat = b + n.val)
    (hd : decodePattern (opWord (b / 4096) (b / 512 % 8) (b / 64 % 8) (b % 64 + n.val)) = .ok i) :
    decodePattern (BitVec.ofNat 16 i.opNat) = .ok i := decodePattern_of_fields _ _ _ _ hi (by omega) hd

theorem decodePattern_of_wideReg (hi : i.opNat = b + sz.wideCode * 64 + n.val)
    (hd : decodePattern (opWord (b / 4096) (b / 512 % 8) (b / 64 % 8 + sz.wideCode) (b % 64 + n.val)) = .ok i) :
    decodePattern (BitVec.ofNat 16 i.opNat) = .ok i := decodePattern_of_fields _ _ _ _ hi (by omega) hd

theorem decodePattern_of_pair (hi : i.opNat = b + x.val * 512 + y.val) (hb : b / 512 % 8 = 0)
    (hd : decodePattern (opWord (b / 4096) x.val (b / 64 % 8) (b % 64 + y.val)) = .ok i) :
    decodePattern (BitVec.ofNat 16 i.opNat) = .ok i := decodePattern_of_fields _ _ _ _ hi (by omega) hd

theorem decodePattern_of_pairMode (hi : i.opNat = b + x.val * 512 + y.val + m.code * 8)
    (hb : b % 64 = 0 ∧ b / 512 % 8 = 0)
    (hd : decodePattern (opWord (b / 4096) x.val (b / 64 % 8) (m.code * 8 + y.val)) = .ok i) :
    decodePattern (BitVec.ofNat 16 i.opNat) = .ok i := decodePattern_of_fields _ _ _ _ hi (by omega) hd

theorem decodePattern_of_sizePairMode (hi : i.opNat = b + x.val * 512 + y.val + sz.code * 64 + m.code * 8)
    (hb : b % 256 = 0 ∧ b / 512 % 8 = 0)
    (hd : decodePattern (opWord (b / 4096) x.val (b / 256 % 2 * 4 + sz.code) (m.code * 8 + y.val)) = .ok i) :
    decodePattern (BitVec.ofNat 16 i.opNat) = .ok i := decodePattern_of_fields _ _ _ _ hi (by omega) hd

theorem decodePattern_of_cond {c : Cond} {k : Nat} (hi : i.opNat = 0x50C0 + c.code * 256 + k)
    (hd : decodePattern (opWord 5 (c.code / 2) (c.code % 2 * 4 + 3) k) = .ok i) :
    decodePattern (BitVec.ofNat 16 i.opNat) = .ok i := decodePattern_of_fields _ _ _ _ hi (by omega) hd

end Layouts

/-- The operation word of the layout with a byte of data: group, register or condition, and the data (R103). -/
def byteWord (g r b : Nat) (d : Byte) : Word := BitVec.ofNat 16 (g * 4096 + r * 512 + b * 256 + d.toNat)

section Bytes

variable {g r b : Nat} {d : Byte} (hg : g < 16) (hr : r < 8) (hb : b < 2)

include hg hr hb

theorem fld_byteWord (lo len : Nat) :
    fld (byteWord g r b d) lo len = (g * 4096 + r * 512 + b * 256 + d.toNat) / 2 ^ lo % 2 ^ len := by
  have fits : g * 4096 + r * 512 + b * 256 + d.toNat < 2 ^ 16 := by omega
  rw [fld, byteWord, BitVec.toNat_ofNat, Nat.mod_eq_of_lt fits]

@[simp] theorem byteWord_group : fld (byteWord g r b d) 12 4 = g := by rw [fld_byteWord hg hr hb]; omega
@[simp] theorem byteWord_9_3 : fld (byteWord g r b d) 9 3 = r := by rw [fld_byteWord hg hr hb]; omega
@[simp] theorem byteWord_8_4 : fld (byteWord g r b d) 8 4 = r * 2 + b := by rw [fld_byteWord hg hr hb]; omega
@[simp] theorem byteWord_8_1 : fld (byteWord g r b d) 8 1 = b := by rw [fld_byteWord hg hr hb]; omega
@[simp] theorem byteWord_0_8 : fld (byteWord g r b d) 0 8 = d.toNat := by rw [fld_byteWord hg hr hb]; omega

end Bytes

/-- An instruction with these fields and this byte in its operation word is what the decoder reads from them. -/
theorem decodePattern_of_byte {i : Instr} (g r b : Nat) {d : Byte} {n : Nat} (hi : i.opNat = n)
    (hn : n = g * 4096 + r * 512 + b * 256 + d.toNat) (hd : decodePattern (byteWord g r b d) = .ok i) :
    decodePattern (BitVec.ofNat 16 i.opNat) = .ok i := by
  rw [hi, hn]
  exact hd

/-- A register shift (43_shift_rotate.md R251), by its type t and direction d. -/
theorem decodePattern_regShift {i : Instr} {sz : Size} {cnt : ShiftCount} {dn : RegNo} (t d : Nat) (ht : t < 4)
    (hd : d < 2) {n : Nat} (hi : i.opNat = n) (hn : n = encShift (0xE000 + d * 256 + t * 8) sz cnt dn)
    (h : ∀ w, fld w 3 2 = t → fld w 8 1 = d →
      (if fld w 5 1 = 1 then ShiftCount.reg (regFld w 9) else .quick (regFld w 9)) = cnt → regFld w 0 = dn →
      decodeRegShift w sz = i) :
    decodePattern (BitVec.ofNat 16 i.opNat) = .ok i := by
  obtain ⟨c, b, fits, code, counts⟩ : ∃ (c : RegNo) (b : Nat), b < 2 ∧ cnt.code = c.val * 512 + b * 32 ∧
      (if b = 1 then ShiftCount.reg c else .quick c) = cnt := by
    cases cnt with
    | quick q => exact ⟨q, 0, by decide, by simp [ShiftCount.code], rfl⟩
    | reg n => exact ⟨n, 1, by decide, by simp [ShiftCount.code], rfl⟩
  have bound := sz.code_lt
  have mode : d * 4 + sz.code < 8 := by omega
  have field : b * 32 + t * 8 + dn.val < 64 := by omega
  rw [encShift] at hn
  refine decodePattern_of_fields 14 c (d * 4 + sz.code) (b * 32 + t * 8 + dn) hi (by omega) ?_
  have size : fld (opWord 14 c (d * 4 + sz.code) (b * 32 + t * 8 + dn)) 6 2 = sz.code := by
    rw [opWord_6_2 (by decide) c.isLt mode field]
    omega
  have type : fld (opWord 14 c (d * 4 + sz.code) (b * 32 + t * 8 + dn)) 3 2 = t := by
    rw [opWord_3_2 (by decide) c.isLt mode field]
    omega
  have direction : fld (opWord 14 c (d * 4 + sz.code) (b * 32 + t * 8 + dn)) 8 1 = d := by
    rw [opWord_8_1 (by decide) c.isLt mode field]
    omega
  have register : fld (opWord 14 c (d * 4 + sz.code) (b * 32 + t * 8 + dn)) 5 1 = b := by
    rw [opWord_5_1 (by decide) c.isLt mode field]
    omega
  have low : regFld (opWord 14 c (d * 4 + sz.code) (b * 32 + t * 8 + dn)) 0 = dn := by
    rw [regFld, opWord_0_3 (by decide) c.isLt mode field]
    apply Fin.ext
    rw [Fin.val_ofNat]
    omega
  have count : regFld (opWord 14 c (d * 4 + sz.code) (b * 32 + t * 8 + dn)) 9 = c := by
    rw [regFld_opWord_9 (by decide) mode field]
  rw [decodePattern_opWord_E c.isLt mode field, decodeGroupE, withSize_of_fld size,
    h _ type direction (by rw [register, count, counts]) low]

/-- The instruction with an unimplemented line's low bits (60_exceptions.md R379, R380). -/
theorem decodePattern_line {i : Instr} (g : Nat) (hg : g < 16) (low : BitVec 12) (hi : i.opNat = g * 4096 + low.toNat)
    (h : ∀ w, fld w 12 4 = g → BitVec.ofNat 12 (fld w 0 12) = low → decodePattern w = .ok i) :
    decodePattern (BitVec.ofNat 16 i.opNat) = .ok i := by
  have fits : g * 4096 + low.toNat < 2 ^ 16 := by omega
  rw [hi]
  apply h
  · rw [fld, BitVec.toNat_ofNat, Nat.mod_eq_of_lt fits]
    omega
  · rw [fld, BitVec.toNat_ofNat, Nat.mod_eq_of_lt fits]
    apply BitVec.eq_of_toNat_eq
    rw [BitVec.toNat_ofNat]
    omega

/-- The decoder reads the encoding of a well-formed instruction as the instruction, whatever its operands. -/
theorem decodePattern_opNat (i : Instr) (h : i.wf = true) : decodePattern (BitVec.ofNat 16 i.opNat) = .ok i := by
  cases i with
  | oriToCcr | oriToSr | andiToCcr | andiToSr | eoriToCcr | eoriToSr => rfl
  | illegal | reset | nop | stop | rte | rts | trapv | rtr => rfl
  | ori sz ea | andi sz ea | eori sz ea =>
    obtain ⟨-, status⟩ := Ea.of_isDataAlterable h
    exact decodePattern_of_sizeEa rfl rfl (by simp [decodeGroup0, immOrStatus, withSizeEa, status])
  | subi sz ea | addi sz ea | cmpi sz ea =>
    exact decodePattern_of_sizeEa rfl rfl (by simp [decodeGroup0, withSizeEa])
  | btstImm ea | bchgImm ea | bclrImm ea | bsetImm ea =>
    exact decodePattern_of_ea rfl rfl (by simp [decodeGroup0])
  | btstReg n ea =>
    have movep := Ea.mode_of_isData h
    exact decodePattern_of_regEa rfl (by decide) (by simp [decodeGroup0, movep])
  | bchgReg n ea | bclrReg n ea | bsetReg n ea =>
    obtain ⟨movep, -⟩ := Ea.of_isDataAlterable h
    exact decodePattern_of_regEa rfl (by decide) (by simp [decodeGroup0, movep])
  | movep toMem sz dn an =>
    refine decodePattern_of_fields 0 dn (4 + bitCode toMem * 2 + sz.wideCode) (8 + an) (n := _ + _) rfl
      (by rw [encPair]; omega) ?_
    cases sz with
    | b => cases h
    | w | l => cases toMem <;> simp [bitCode, Size.wideCode, wideOf, decodeGroup0]
  | move sz src dst =>
    obtain ⟨-, fits⟩ := (Bool.and_eq_true _ _).mp h
    obtain ⟨movea, -⟩ := Ea.of_isDataAlterable fits
    refine decodePattern_of_fields sz.moveCode dst.regCode dst.mode src.code (n := _ + _) rfl
      (by rw [Ea.dstCode]; omega) ?_
    cases sz <;> simp [Size.moveCode, decodeMove, movea]
  | movea sz src an =>
    refine decodePattern_of_fields sz.moveCode an 1 src.code (n := _ + _) rfl (by omega) ?_
    cases sz <;> simp [Size.moveCode, decodeMove]
  | negx sz ea | clr sz ea | neg sz ea | not sz ea | tst sz ea =>
    exact decodePattern_of_sizeEa rfl rfl (by simp [decodeGroup4, withSizeEa])
  | moveFromSr ea | moveToCcr ea | moveToSr ea | nbcd ea | jsr ea | jmp ea =>
    exact decodePattern_of_ea rfl rfl (by simp [decodeGroup4, withSizeEa])
  | tas ea =>
    obtain ⟨-, illegal⟩ := Ea.of_isDataAlterable h
    exact decodePattern_of_ea rfl rfl (by simp [decodeGroup4, withSizeEa, illegal])
  | pea ea =>
    obtain ⟨swap, -⟩ := Ea.mode_of_isControl h
    exact decodePattern_of_ea rfl rfl (by simp [decodeGroup4, swap])
  | chk n ea | lea n ea =>
    exact decodePattern_of_regEa rfl (by decide) (by simp [decodeGroup4])
  | swap n => exact decodePattern_of_reg rfl (by simp [decodeGroup4])
  | ext sz n | movemPredec sz n =>
    refine decodePattern_of_wideReg rfl ?_
    cases sz with
    | b => cases h
    | w | l => simp [Size.wideCode, wideOf, decodeGroup4]
  | movemToMem sz ea =>
    obtain ⟨wide, control⟩ := (Bool.and_eq_true _ _).mp h
    obtain ⟨ext, predec⟩ := Ea.mode_of_isControl ((Bool.and_eq_true _ _).mp control).1
    refine decodePattern_of_wideEa rfl rfl ?_
    cases sz with
    | b => cases wide
    | w | l => simp [Size.wideCode, wideOf, decodeGroup4, ext, predec]
  | movemToRegs sz ea =>
    obtain ⟨wide, -⟩ := (Bool.and_eq_true _ _).mp h
    refine decodePattern_of_wideEa rfl rfl ?_
    cases sz with
    | b => cases wide
    | w | l => simp [Size.wideCode, wideOf, decodeGroup4]
  | trap n =>
    refine decodePattern_of_fields 4 7 1 n (n := _ + _) rfl (by omega) ?_
    have bound : n.val < 64 := by omega
    have vector : n.val % 16 = n.val := by omega
    have mode : n.val / 8 = 0 ∨ n.val / 8 = 1 := by omega
    rcases mode with m | m <;> simp [decodeGroup4, decodeSystem, m, bound, vector]
  | link n | unlk n | moveToUsp n | moveFromUsp n =>
    exact decodePattern_of_reg rfl (by simp [decodeGroup4, decodeSystem])
  | addq sz n ea | subq sz n ea =>
    exact decodePattern_of_regSizeEa rfl (by decide) (by simp [decodeGroup5, withSizeEa])
  | scc c ea =>
    obtain ⟨dbcc, -⟩ := Ea.of_isDataAlterable h
    exact decodePattern_of_cond rfl (by simp [decodeGroup5_cond, dbcc])
  | dbcc c n =>
    refine decodePattern_of_fields 5 (c.code / 2) (c.code % 2 * 4 + 3) (8 + n) (n := _ + _) rfl (by omega) ?_
    simp [decodeGroup5_cond]
  | bra d =>
    refine decodePattern_of_byte 6 0 0 (d := d) (n := _ + _) rfl (by omega) ?_
    simp [decodePattern, decodeGroup6]
  | bsr d =>
    refine decodePattern_of_byte 6 0 1 (d := d) (n := _ + _) rfl (by omega) ?_
    simp [decodePattern, decodeGroup6]
  | bcc c d =>
    refine decodePattern_of_byte 6 (c.code / 2) (c.code % 2) (d := d) (n := _ + _) rfl (by omega) ?_
    cases c with
    | t | f => cases h
    | _ => simp [Cond.code, Cond.decode, decodePattern, decodeGroup6]
  | moveq d dn =>
    refine decodePattern_of_byte 7 dn 0 (d := d) (n := _ + _) rfl (by omega) ?_
    simp [decodePattern, regFld]
  | orToDn sz n ea | andToDn sz n ea =>
    exact decodePattern_of_regSizeEa rfl (by decide) (by simp [decodeGroup8, decodeGroupC, withSizeEa])
  | orToEa sz n ea | andToEa sz n ea =>
    obtain ⟨notDn, notAn⟩ := Ea.of_isMemAlterable h
    exact decodePattern_of_regSizeEa rfl (by decide)
      (by simp [decodeGroup8, decodeGroupC, withSizeEa, notDn, notAn])
  | divu n ea | divs n ea | mulu n ea | muls n ea =>
    exact decodePattern_of_regEa rfl (by decide) (by simp [decodeGroup8, decodeGroupC, withSizeEa])
  | sbcd m x y | abcd m x y =>
    refine decodePattern_of_pairMode rfl (by decide) ?_
    cases m <;> simp [PairMode.code, pairOf, decodeGroup8, decodeGroupC]
  | exgDD x y | exgAA x y | exgDA x y =>
    exact decodePattern_of_pair rfl rfl (by simp [decodeGroupC])
  | subToDn sz n ea | addToDn sz n ea | cmp sz n ea =>
    exact decodePattern_of_regSizeEa rfl (by decide)
      (by simp [decodeGroup9, decodeGroupD, decodeGroupB, withSizeEa])
  | subToEa sz n ea | addToEa sz n ea =>
    obtain ⟨notDn, notAn⟩ := Ea.of_isMemAlterable h
    exact decodePattern_of_regSizeEa rfl (by decide)
      (by simp [decodeGroup9, decodeGroupD, withSizeEa, notDn, notAn])
  | eor sz n ea =>
    obtain ⟨cmpm, -⟩ := Ea.of_isDataAlterable h
    exact decodePattern_of_regSizeEa rfl (by decide) (by simp [decodeGroupB, withSizeEa, cmpm])
  | suba sz n ea | adda sz n ea | cmpa sz n ea =>
    refine decodePattern_of_regWideEa rfl (by decide) ?_
    cases sz with
    | b => cases h
    | w | l => simp [Size.wideCode, wideOf, decodeGroup9, decodeGroupD, decodeGroupB]
  | subx sz m x y | addx sz m x y =>
    refine decodePattern_of_sizePairMode rfl (by decide) ?_
    cases m <;> simp [PairMode.code, pairOf, decodeGroup9, decodeGroupD]
  | cmpm sz x y =>
    refine decodePattern_of_fields 11 x (4 + sz.code) (8 + y) (n := _ + _) rfl (by rw [encPair]; omega) ?_
    simp [decodeGroupB]
  | asrMem ea | aslMem ea | lsrMem ea | lslMem ea | roxrMem ea | roxlMem ea | rorMem ea | rolMem ea =>
    exact decodePattern_of_ea rfl rfl (by simp [decodeGroupE, decodeMemShift])
  | asrReg sz cnt dn =>
    exact decodePattern_regShift 0 0 (by decide) (by decide) rfl rfl fun w t d cnt dn => by
      simp only [decodeRegShift, t, d, cnt, dn]
  | aslReg sz cnt dn =>
    exact decodePattern_regShift 0 1 (by decide) (by decide) rfl rfl fun w t d cnt dn => by
      simp only [decodeRegShift, t, d, cnt, dn]
  | lsrReg sz cnt dn =>
    exact decodePattern_regShift 1 0 (by decide) (by decide) rfl rfl fun w t d cnt dn => by
      simp only [decodeRegShift, t, d, cnt, dn]
  | lslReg sz cnt dn =>
    exact decodePattern_regShift 1 1 (by decide) (by decide) rfl rfl fun w t d cnt dn => by
      simp only [decodeRegShift, t, d, cnt, dn]
  | roxrReg sz cnt dn =>
    exact decodePattern_regShift 2 0 (by decide) (by decide) rfl rfl fun w t d cnt dn => by
      simp only [decodeRegShift, t, d, cnt, dn]
  | roxlReg sz cnt dn =>
    exact decodePattern_regShift 2 1 (by decide) (by decide) rfl rfl fun w t d cnt dn => by
      simp only [decodeRegShift, t, d, cnt, dn]
  | rorReg sz cnt dn =>
    exact decodePattern_regShift 3 0 (by decide) (by decide) rfl rfl fun w t d cnt dn => by
      simp only [decodeRegShift, t, d, cnt, dn]
  | rolReg sz cnt dn =>
    exact decodePattern_regShift 3 1 (by decide) (by decide) rfl rfl fun w t d cnt dn => by
      simp only [decodeRegShift, t, d, cnt, dn]
  | lineA low =>
    exact decodePattern_line 10 (by decide) low rfl fun w g low => by simp only [decodePattern, g, low]
  | lineF low =>
    exact decodePattern_line 15 (by decide) low rfl fun w g low => by simp only [decodePattern, g, low]

/-- Settles O1: the pattern is read as the instruction, and the check of its operands passes. -/
theorem decodeInvertsEncode : Obligations.DecodeInvertsEncode := by
  intro i h
  refine ⟨_, rfl, ?_⟩
  rw [decode, decodePattern_opNat i h]
  exact if_pos h

/-! ## The brief extension word (R116, D32) -/

theorem fld_or (w v : Word) (lo len : Nat) : fld (w ||| v) lo len = fld w lo len ||| fld v lo len := by
  simp only [fld, BitVec.toNat_or, ← Nat.shiftRight_eq_div_pow, Nat.shiftRight_or_distrib, Nat.or_mod_two_pow]

theorem getLsbD_of_fld {w : Word} {lo : Nat} {b : Bool} (h : fld w lo 1 = bitCode b) : w.getLsbD lo = b := by
  rw [BitVec.getLsbD, Nat.testBit_eq_decide_div_mod_eq]
  change decide (fld w lo 1 = 1) = b
  rw [h]
  cases b <;> rfl

theorem BriefExt.toNat_encode (e : BriefExt) : e.encode.toNat =
    bitCode e.isAddr * 32768 + e.reg.val * 4096 + bitCode e.isLong * 2048 + e.disp.toNat := by
  have bound (b : Bool) : bitCode b ≤ 1 := by cases b <;> decide
  have addr := bound e.isAddr
  have long := bound e.isLong
  rw [BriefExt.encode, BitVec.toNat_ofNat, Nat.mod_eq_of_lt (by omega)]

theorem BriefExt.decode_encode (e : BriefExt) : BriefExt.decode e.encode = e := by
  have word := e.toNat_encode
  have bound (b : Bool) : bitCode b ≤ 1 := by cases b <;> decide
  have addr := bound e.isAddr
  have long := bound e.isLong
  rw [BriefExt.decode, BriefExt.mk.injEq]
  refine ⟨getLsbD_of_fld ?addrBit, Fin.ext ?register, getLsbD_of_fld ?longBit, BitVec.eq_of_toNat_eq ?data⟩
  case register =>
    rw [regFld_val, fld, word]
    omega
  case data =>
    rw [BitVec.extractLsb'_toNat, word, Nat.shiftRight_zero]
    omega
  all_goals
    rw [fld, word]
    omega

/-- The decoder looks at the four fields only. -/
theorem BriefExt.decode_or {w v : Word} (addr : v.getLsbD 15 = false) (reg : fld v 12 3 = 0)
    (long : v.getLsbD 11 = false) (disp : v.extractLsb' 0 8 = 0#8) : BriefExt.decode (w ||| v) = BriefExt.decode w := by
  simp only [BriefExt.decode, BitVec.getLsbD_or, addr, long, Bool.or_false, regFld, fld_or, reg, Nat.or_zero,
    BitVec.extractLsb'_or, disp, BitVec.or_zero]

/-- Settles O3: bits 10 to 8 lie outside the four fields. -/
theorem briefExtensionIgnoresBits : Obligations.BriefExtensionIgnoresBits := by
  have outside : ∀ k : Fin 8, (BitVec.ofNat 16 (k.val * 256)).getLsbD 15 = false ∧
      fld (BitVec.ofNat 16 (k.val * 256)) 12 3 = 0 ∧ (BitVec.ofNat 16 (k.val * 256)).getLsbD 11 = false ∧
      (BitVec.ofNat 16 (k.val * 256)).extractLsb' 0 8 = 0#8 := by decide
  refine ⟨BriefExt.decode_encode, fun e k => ?_⟩
  obtain ⟨addr, reg, long, disp⟩ := outside k
  rw [BriefExt.decode_or addr reg long disp, BriefExt.decode_encode]

end Sys2Proof
